-- ==== Sys2Proof/Word.lean ====
section
/-! DEFINITION. The widths of HEXCORE's values (spec/00_scope.md R6, R7): all values are unsigned. -/

namespace Sys2Proof

/-- XLEN_HOST: a host-visible register, an operation word, a payload (R6, R22). -/
abbrev Word := BitVec 32

/-- REG_BITS: a device register address of the HEX protocol (R6). -/
abbrev Half := BitVec 16

/-- A wire byte, a checksum, or one character of a line (R6, R8). -/
abbrev Byte := BitVec 8

/-- The value of one hex digit (R11). -/
abbrev Nibble := BitVec 4

/-- IDX_BITS: the index of a host-visible register, 0x00 to 0x3F (R6, R22). -/
abbrev Index := BitVec 6

end Sys2Proof
end

