-- ==== Sys2Proof/Config.lean ====
section
/-! DEFINITION. What an implementation of HEXCORE fixes: the parameters of spec/00_scope.md R6 and the
register catalog of spec/44_register_catalog.md R190. HEXCORE is deterministic (spec/93_implementation_defined.md),
so there is no free value here. -/

namespace Sys2Proof

/-- One entry of CATALOG: a 16-bit device register address and its symbolic name (10_state.md R37). -/
structure CatalogEntry where
  address : Half
  name    : String
deriving DecidableEq, Repr

namespace Config

/-- CSUM_SEED (00_scope.md R6). -/
def csumSeed : Byte := 0x55

/-- LINE_CAP, the number of entries of LINE (00_scope.md R6). -/
abbrev lineCap : Nat := 17

/-- VALID_LLEN, the accepted line lengths (00_scope.md R6; decision D7). -/
def validLlen : List Nat := [9, 11, 13, 17]

/-- The default CATALOG: the six entries of 44_register_catalog.md R190, in its order. -/
def defaultCatalog : List CatalogEntry :=
  [ { address := 0x0200, name := "DeviceModeRegister" },
    { address := 0x0201, name := "DeviceStateRegister" },
    { address := 0x0207, name := "DeviceOffReasonRegister" },
    { address := 0xEDD5, name := "ChargerVoltageRegister" },
    { address := 0xEDF0, name := "BatteryMaximumCurrentRegister" },
    { address := 0xEDF6, name := "BatteryFloatVoltageRegister" } ]

/-- The catalog that `State.reset` is configured with: the default of the open parameter CATALOG (00_scope.md R6,
decision D17). A HEXCORE with another catalog is `State.configured` with it (assumption log 5). -/
def catalog : List CatalogEntry := defaultCatalog

end Config

end Sys2Proof
end

