-- ==== Sys2Proof/Syntax.lean ====
section
/-! DEFINITION. The syntax of HEXCORE: its nine operations (one constructor per row of spec/opcode_table.json), the
host's transactions and its assembly notation (spec/30_encoding.md R84 to R86), the names of the host-visible registers
(spec/10_state.md R23), and the frame of the HEX protocol. -/

namespace Sys2Proof

/-- The operations (30_encoding.md R71). An operation word has no operand field: every operation takes its operands
from fixed registers (R70). -/
inductive Instr where
  /-- 45_host_interface.md R200. -/
  | nop
  /-- 42_frame_encoder.md R144. -/
  | encode
  /-- 43_frame_decoder.md R168. -/
  | decode
  /-- 40_byte_order.md R102. -/
  | conv
  /-- 40_byte_order.md R103. -/
  | swap16
  /-- 41_checksum.md R123. -/
  | csinit
  /-- 41_checksum.md R124. -/
  | csbyte
  /-- 41_checksum.md R125. -/
  | csverify
  /-- 44_register_catalog.md R192. -/
  | nameof
deriving DecidableEq, Repr

/-- The host-visible registers by name (10_state.md R23); the indices are given by `HostReg.index`. An index with no
name is reserved (R36). -/
inductive HostReg where
  | opr | status | fcmd | freg | fpay | fpctl | fcsum | llen | arg | res | acc
  | line (i : Fin Config.lineCap)
deriving DecidableEq, Repr

/-- One host transaction (20_memory.md R57): a read of a register or a write of a value to it, always a whole
32-bit word (R60). -/
inductive Transaction where
  | read  (idx : Index)
  | write (idx : Index) (v : Word)
deriving DecidableEq, Repr

/-- What the outside world can do to HEXCORE: a host transaction, or Reset, a host-visible step of its own between
two transactions (70_reset_and_hazards.md R250). -/
inductive HostEvent where
  | txn (t : Transaction)
  | reset
deriving DecidableEq, Repr

/-- `<REG>` of the host assembly syntax (30_encoding.md R84): a register's name, or a raw index `@0xNN`. -/
inductive RegRef where
  | named (r : HostReg)
  | raw   (idx : Index)
deriving DecidableEq, Repr

/-- A line of host assembly (30_encoding.md R84) or a pseudo-instruction (R85). The annotation `; = <v>` of a read
changes nothing and has no constructor. -/
inductive AsmLine where
  | wr    (r : RegRef) (v : Word)
  | rd    (r : RegRef)
  | op    (i : Instr)
  | wline (chars : List Byte)
  | rline
deriving DecidableEq, Repr

/-- The three command values the document names (30_encoding.md R83). They are names only: the command byte is opaque
to HEXCORE and no operation looks at it. -/
inductive NamedCommand where
  | getId | get | set
deriving DecidableEq, Repr

/-- The frame that decode_fn returns in its OK(c, r, present, k, x, s) (43_frame_decoder.md R160). -/
structure Frame where
  command  : Byte
  register : Half
  present  : BitVec 1
  /-- The payload field's width in bytes, k of R76: 0, 1, 2 or 4. -/
  width    : Nat
  payload  : Word
  checksum : Byte
deriving DecidableEq, Repr

/-- What encode_fn returns: the line, the payload width k and the checksum (42_frame_encoder.md R143). -/
structure EncodedLine where
  text     : List Byte
  width    : Nat
  checksum : Byte
deriving DecidableEq, Repr

end Sys2Proof
end

