-- ==== Sys2Proof/WellFormed.lean ====
section
/-! DEFINITION. Which terms of the syntax the spec admits. -/

namespace Sys2Proof

/-- Every operation is well formed: an operation word has no register, immediate or mode field that could hold an
inadmissible value (30_encoding.md R70). -/
def Instr.wellFormed : Instr → Bool
  | .nop => true
  | .encode => true
  | .decode => true
  | .conv => true
  | .swap16 => true
  | .csinit => true
  | .csbyte => true
  | .csverify => true
  | .nameof => true

/-- `wline` takes at most 17 characters (30_encoding.md R85); the other lines admit every operand of their types. -/
def AsmLine.wellFormed : AsmLine → Bool
  | .wline chars => decide (chars.length ≤ Config.lineCap)
  | .wr _ _ => true
  | .rd _ => true
  | .op _ => true
  | .rline => true

/-- A configuration keeps its catalog addresses distinct (44_register_catalog.md R193, 10_state.md R37). -/
def catalogWellFormed (cat : List CatalogEntry) : Bool :=
  decide (cat.map CatalogEntry.address).Nodup

end Sys2Proof
end

