-- ==== Sys2Proof/Decode.lean ====
section
/-! DEFINITION. The encodings of spec/30_encoding.md: operation words (R70 to R74), the register map (spec/10_state.md
R23), the 40-bit transaction words (R86) and the host assembly's expansion (R84, R85). -/

namespace Sys2Proof

/-- What an operation word decodes to (30_encoding.md R73): one of the nine operations, or ILLEGAL. -/
inductive Decoded where
  | op (i : Instr)
  /-- An unassigned opcode, 9 to 0xFFFFFFFF (R72): performing it raises IllegalOp. -/
  | illegal (v : Word)
deriving DecidableEq, Repr

/-- The opcode map (30_encoding.md R71). Every row's mask is 0xFFFFFFFF, so a row matches one word. -/
def opcodeTable : List (Word × Instr) :=
  [ (0x00000000, .nop),
    (0x00000001, .encode),
    (0x00000002, .decode),
    (0x00000003, .conv),
    (0x00000004, .swap16),
    (0x00000005, .csinit),
    (0x00000006, .csbyte),
    (0x00000007, .csverify),
    (0x00000008, .nameof) ]

/-- The decoder of operation words, total on all 32-bit values (30_encoding.md R71 to R73). -/
def decode (v : Word) : Decoded :=
  match opcodeTable.find? (fun row => row.1 == v) with
  | some row => .op row.2
  | none => .illegal v

/-- The operation word of each operation (30_encoding.md R71). -/
def encode : Instr → Word
  | .nop => 0x00000000
  | .encode => 0x00000001
  | .decode => 0x00000002
  | .conv => 0x00000003
  | .swap16 => 0x00000004
  | .csinit => 0x00000005
  | .csbyte => 0x00000006
  | .csverify => 0x00000007
  | .nameof => 0x00000008

/-- The operation word that `nbits` table bits `w` stand for, the bits above them zero (assumption log 4). None when
they do not fit the 32 bits of an operation word (30_encoding.md R70). -/
def tableWord (nbits w : Nat) : Option Word :=
  let v := w % 2 ^ nbits
  if v < 2 ^ 32 then some (BitVec.ofNat 32 v) else none

/-- The operation the decoder reads from a word numbered as spec/opcode_table.json numbers it. -/
def decodeTableWord (nbits w : Nat) : Option Instr :=
  match tableWord nbits w with
  | some v =>
    match decode v with
    | .op i => some i
    | .illegal _ => none
  | none => none

/-- The index of each named register (10_state.md R23). -/
def HostReg.index : HostReg → Index
  | .opr => 0x00
  | .status => 0x01
  | .fcmd => 0x02
  | .freg => 0x03
  | .fpay => 0x04
  | .fpctl => 0x05
  | .fcsum => 0x06
  | .llen => 0x07
  | .arg => 0x08
  | .res => 0x09
  | .acc => 0x0A
  | .line i => BitVec.ofNat 6 (0x10 + i.val)

/-- The register at an index (10_state.md R23); none at the reserved indices 0x0B to 0x0F and 0x21 to 0x3F (R36). -/
def regAt (idx : Index) : Option HostReg :=
  match idx.toNat with
  | 0x00 => some .opr
  | 0x01 => some .status
  | 0x02 => some .fcmd
  | 0x03 => some .freg
  | 0x04 => some .fpay
  | 0x05 => some .fpctl
  | 0x06 => some .fcsum
  | 0x07 => some .llen
  | 0x08 => some .arg
  | 0x09 => some .res
  | 0x0A => some .acc
  | n => if h : 0x10 ≤ n ∧ n ≤ 0x20 then some (.line ⟨n - 0x10, by simp only [Config.lineCap]; omega⟩) else none

/-- The 40-bit word of a transaction (30_encoding.md R86): bit 39 is 0, bit 38 is W, bits 37 to 32 are IDX and bits
31 to 0 are DATA, 0 for a read. -/
def encodeTransaction : Transaction → BitVec 40
  | .read idx => 0#1 ++ 0#1 ++ idx ++ 0#32
  | .write idx v => 0#1 ++ 1#1 ++ idx ++ v

/-- The transaction a 40-bit word stands for (30_encoding.md R86); none where the reserved bit 39 is not 0, or where a
read carries data. -/
def decodeTransaction (w : BitVec 40) : Option Transaction :=
  let idx := w.extractLsb' 32 6
  let data := w.extractLsb' 0 32
  if w.extractLsb' 39 1 = 1#1 then none
  else if w.extractLsb' 38 1 = 1#1 then some (.write idx data)
  else if data = 0 then some (.read idx)
  else none

/-- The index a `<REG>` names (30_encoding.md R84). -/
def RegRef.index : RegRef → Index
  | .named r => r.index
  | .raw idx => idx

/-- `wr LINE[0], c_0 ... wr LINE[n-1], c_{n-1}`, from entry `i` on (30_encoding.md R85). -/
def writeChars (i : Nat) : List Byte → List Transaction
  | [] => []
  | c :: cs => .write (BitVec.ofNat 6 (0x10 + i)) (c.setWidth 32) :: writeChars (i + 1) cs

/-- `rd LINE[0] ... rd LINE[n-1]` (30_encoding.md R85). -/
def readChars (n : Nat) : List Transaction :=
  (List.range n).map fun i => .read (BitVec.ofNat 6 (0x10 + i))

/-- The transactions a line of host assembly stands for (30_encoding.md R84, R85). `llen` is the value the host
reads from LLEN when the line runs; only `rline`, whose expansion depends on it, looks at it (assumption log 9).
None where the spec gives no expansion: a `wline` of more than 17 characters, or an `rline` when LLEN is above 17. -/
def assemble (llen : Word) : AsmLine → Option (List Transaction)
  | .wr r v => some [.write r.index v]
  | .rd r => some [.read r.index]
  | .op i => some [.write HostReg.opr.index (encode i)]
  | .wline chars =>
    if chars.length ≤ Config.lineCap then
      some (writeChars 0 chars ++ [.write HostReg.llen.index (BitVec.ofNat 32 chars.length)])
    else none
  | .rline =>
    if llen.toNat ≤ Config.lineCap then some (.read HostReg.llen.index :: readChars llen.toNat) else none

/-- The byte of each named command (30_encoding.md R83). -/
def NamedCommand.code : NamedCommand → Byte
  | .getId => 0x04
  | .get => 0x07
  | .set => 0x08

end Sys2Proof
end

