-- ==== Sys2Proof/Machine/State.lean ====
section
/-! DEFINITION. HEXCORE's state (spec/10_state.md R21), its reset value (spec/70_reset_and_hazards.md R250), and the
reasons a step could stop. -/

namespace Sys2Proof.Machine

/-- The reasons a step can fault. There are none: HEXCORE has no traps (60_exceptions.md R220), no access can fail
(45_host_interface.md R202, 20_memory.md R59) and every operation is total over every state (R205). An operation that
fails writes its code to STATUS.ERR and the machine goes on (R220). DEDUCED (assumption log 7), safe. -/
inductive Fault where
deriving DecidableEq, Repr

/-- The reasons a step can be refused. -/
inductive Refusal where
  /-- The instruction of that mnemonic has no meaning in this model yet. Raised by `exec` alone; no arm raises it now,
  since all nine operations have their meaning. Safe: a refusal proves nothing about the hardware. -/
  | notModelled (mnemonic : String)
deriving DecidableEq, Repr

/-- The architectural state of HEXCORE (10_state.md R21), and below it the catalog it is configured with and the host's
side of the bus. -/
structure State where
  /-- STATUS.ERR, the outcome of the most recent operation other than NOP (R25). -/
  err     : BitVec 2
  /-- FCMD, the frame's command, all 32 bits kept (R26). -/
  fcmd    : Word
  /-- FREG, the frame's logical register address, all 32 bits kept (R27). -/
  freg    : Word
  /-- FPAY, the frame's logical payload value (R28). -/
  fpay    : Word
  /-- FPCTL.PRESENT (R29). -/
  present : BitVec 1
  /-- FPCTL.WIDTH; only 0, 1, 2 or 4 is ever stored (R29). -/
  width   : BitVec 3
  /-- FCSUM (R30). -/
  fcsum   : Byte
  /-- LLEN, the number of characters of the line (R31). -/
  llen    : Word
  /-- ARG, the operand of CONV, SWAP16, CSBYTE, CSVERIFY and NAMEOF (R32). -/
  arg     : Word
  /-- RES, the result of the most recent successful CONV, SWAP16, CSVERIFY or NAMEOF (R33). -/
  res     : Word
  /-- ACC, the ChecksumCodec accumulator (R34). -/
  acc     : Byte
  /-- LINE[0..16], one character per entry (R35). -/
  line    : Vector Byte Config.lineCap
  /-- CATALOG, the read-only table inside the engine (R37). It is a parameter and not state (R21); the MODEL carries it
  here, so that every operation and every step takes it as an argument, for any catalog (R6). Nothing changes it (R193,
  70_reset_and_hazards.md R251). DESIGN CHOICE (assumption log 5). -/
  catalog : List CatalogEntry
  /-- The MODEL's own field, not the spec's: what the host does next, oldest first. DESIGN CHOICE (assumption log 1). -/
  pending : List HostEvent
  /-- The MODEL's own field, not the spec's: the values HostRead has returned to the host, oldest first.
  DESIGN CHOICE (assumption log 2). -/
  answers : List Word
deriving DecidableEq, Repr

/-- What performing an operation or a transaction answers. -/
abbrev Result := Host.Outcome State Fault Refusal

/-- The machine right after reset (70_reset_and_hazards.md R250): everything 0, except ACC, which is the checksum
seed. The host has done nothing yet (R252). The catalog is the default one (00_scope.md R6). -/
def State.reset : State where
  err := 0
  fcmd := 0
  freg := 0
  fpay := 0
  present := 0
  width := 0
  fcsum := 0
  llen := 0
  arg := 0
  res := 0
  acc := 0x55
  line := Vector.replicate Config.lineCap 0
  catalog := Config.catalog
  pending := []
  answers := []

/-- A HEXCORE configured with the catalog `cat`, right after reset (44_register_catalog.md R193: a different catalog is a
different configuration). -/
def State.configured (cat : List CatalogEntry) : State := { State.reset with catalog := cat }

end Sys2Proof.Machine
end

