-- ==== Sys2Proof/Machine/Flags.lean ====
section
/-! DEFINITION. The only condition code of HEXCORE, STATUS.ERR (spec/10_state.md R25, R40). -/

namespace Sys2Proof.Machine

/-- The error codes (60_exceptions.md R221). -/
inductive ErrCode where
  | ok | formatError | checksumError | illegalOp
deriving DecidableEq, Repr

/-- The value written to STATUS.ERR for each code (60_exceptions.md R221). -/
def ErrCode.bits : ErrCode → BitVec 2
  | .ok => 0
  | .formatError => 1
  | .checksumError => 2
  | .illegalOp => 3

/-- `R[STATUS].ERR <- code`. -/
def State.setErr (s : State) (e : ErrCode) : State := { s with err := e.bits }

end Sys2Proof.Machine
end

