-- ==== Sys2Proof/Machine/Operands.lean ====
section
/-! DEFINITION. The byte and hex-digit helpers of spec/00_scope.md R10 and R11, and the forms in which an operation
reads an operand register: the whole word, the low 16 bits with the rest required to be 0, and the low 8 bits with the
rest required to be 0 (decision D11). -/

namespace Sys2Proof.Machine

/-- `byte_i(v)`, byte 0 the least significant (00_scope.md R10). -/
def byteOf (v : Word) (i : Nat) : Byte := v.extractLsb' (8 * i) 8

/-- `nbytes(v)`, the minimal byte count; `nbytes(0) = 1` (00_scope.md R10). -/
def nbytes (v : Word) : Nat :=
  if v.toNat < 0x100 then 1
  else if v.toNat < 0x10000 then 2
  else if v.toNat < 0x1000000 then 3
  else 4

/-- `be_bytes(v, k)`: the low k bytes, most significant first (00_scope.md R10). -/
def beBytes (v : Word) : Nat → List Byte
  | 0 => []
  | k + 1 => byteOf v k :: beBytes v k

/-- `be_value`: the sum over j of `b_j * 2^(8(k-1-j))` (00_scope.md R10). -/
def beValue : List Byte → Nat
  | [] => 0
  | b :: bs => b.toNat * 2 ^ (8 * bs.length) + beValue bs

/-- `hexchar(n)`: '0' to '9', then 'A' to 'F' (00_scope.md R11). -/
def hexchar (n : Nibble) : Byte :=
  if n.toNat ≤ 9 then BitVec.ofNat 8 (0x30 + n.toNat) else BitVec.ofNat 8 (0x41 + (n.toNat - 10))

/-- `hexval(c)`; none is the spec's INVALID, which takes in the lowercase digits (00_scope.md R11, decision D8). -/
def hexval (c : Byte) : Option Nibble :=
  if 0x30 ≤ c.toNat ∧ c.toNat ≤ 0x39 then some (BitVec.ofNat 4 (c.toNat - 0x30))
  else if 0x41 ≤ c.toNat ∧ c.toNat ≤ 0x46 then some (BitVec.ofNat 4 (c.toNat - 0x41 + 10))
  else none

/-- `hex_N(v)`: the low N digits of v, most significant first (00_scope.md R11). -/
def hexN (v : Word) : Nat → List Byte
  | 0 => []
  | n + 1 => hexchar (v.extractLsb' (4 * n) 4) :: hexN v n

/-- The code of ':' (00_scope.md R11). -/
def colon : Byte := 0x3A

/-- A byte operand: bits 7 to 0, provided bits 31 to 8 are 0 (41_checksum.md R124, R125; 42_frame_encoder.md R145). -/
def byteOperand (v : Word) : Option Byte :=
  if v.extractLsb' 8 24 = 0 then some (v.extractLsb' 0 8) else none

/-- A 16-bit operand: bits 15 to 0, provided bits 31 to 16 are 0 (40_byte_order.md R103; 44_register_catalog.md R192;
42_frame_encoder.md R145). -/
def halfOperand (v : Word) : Option Half :=
  if v.extractLsb' 16 16 = 0 then some (v.extractLsb' 0 16) else none

/-- ENCODE's payload operand: SOME(FPAY) when PRESENT = 1, else NONE (42_frame_encoder.md R144). -/
def payloadOperand (s : State) : Option Word :=
  if s.present = 1 then some s.fpay else none

end Sys2Proof.Machine
end

