-- ==== Sys2Proof/Machine/Ops.lean ====
section
/-! DEFINITION. The shared operations: ending an operation by `commit` or `raise` (spec/00_scope.md R9), the
groups of registers an operation writes, and the host's reads and writes of the register file
(spec/45_host_interface.md R201, R202). -/

namespace Sys2Proof.Machine

/-- `commit { ...; R[STATUS].ERR <- 0 }`: an operation's writes take effect all at once, at its end (00_scope.md R9,
20_memory.md R58), and its outcome is OK. -/
def commit (writes : State → State) (s : State) : Result := .next ((writes s).setErr .ok)

/-- `raise`: the operation ends and its only effect is the error code in STATUS.ERR (00_scope.md R9; 60_exceptions.md
R220, R226). This is all that taking an exception is on HEXCORE: control is not diverted, nothing is saved, no mode
changes and there is no return (R229). -/
def raise (e : ErrCode) (s : State) : Result := .next (s.setErr e)

/-- `R[RES] <- v`. -/
def State.setRes (s : State) (v : Word) : State := { s with res := v }

/-- `R[ACC] <- b`. -/
def State.setAcc (s : State) (b : Byte) : State := { s with acc := b }

/-- LINE holding a text in entries 0 to n-1 and 0x00 in entries n to 16 (42_frame_encoder.md R144, decision D14). -/
def padLine (text : List Byte) : Vector Byte Config.lineCap :=
  Vector.ofFn fun i => text.getD i.val 0

/-- ENCODE's writes: LINE, LLEN, FCSUM and FPCTL.WIDTH (42_frame_encoder.md R144). -/
def State.storeEncoded (s : State) (e : EncodedLine) : State :=
  { s with line := padLine e.text, llen := BitVec.ofNat 32 e.text.length, fcsum := e.checksum,
           width := BitVec.ofNat 3 e.width }

/-- DECODE's writes: FCMD, FREG, FPAY, FPCTL.PRESENT, FPCTL.WIDTH and FCSUM (43_frame_decoder.md R168). -/
def State.storeFrame (s : State) (f : Frame) : State :=
  { s with fcmd := f.command.setWidth 32, freg := f.register.setWidth 32, fpay := f.payload,
           present := f.present, width := BitVec.ofNat 3 f.width, fcsum := f.checksum }

/-- The value of a register as the host reads it (45_host_interface.md R201): unimplemented bits read 0, and OPR
reads 0. -/
def State.readReg (s : State) : HostReg → Word
  | .opr => 0
  | .status => s.err.setWidth 32
  | .fcmd => s.fcmd
  | .freg => s.freg
  | .fpay => s.fpay
  | .fpctl => s.present.setWidth 32 ||| (s.width.setWidth 32 <<< 4)
  | .fcsum => s.fcsum.setWidth 32
  | .llen => s.llen
  | .arg => s.arg
  | .res => s.res
  | .acc => s.acc.setWidth 32
  | .line i => s.line[i].setWidth 32

/-- `HostRead(idx)` (45_host_interface.md R201); a reserved index reads 0 (10_state.md R36). -/
def hostRead (s : State) (idx : Index) : Word :=
  match regAt idx with
  | some r => s.readReg r
  | none => 0

/-- A host write to a register other than OPR stores the bits the register lets the host write and has no further
effect (45_host_interface.md R202, 20_memory.md R61): FPCTL takes PRESENT alone, a LINE entry its low 8 bits, and the
read-only registers nothing. OPR stores nothing (10_state.md R24); what a write to it starts is `performOp`. -/
def State.writeReg (s : State) (v : Word) : HostReg → State
  | .fcmd => { s with fcmd := v }
  | .freg => { s with freg := v }
  | .fpay => { s with fpay := v }
  | .fpctl => { s with present := v.extractLsb' 0 1 }
  | .llen => { s with llen := v }
  | .arg => { s with arg := v }
  | .line i => { s with line := s.line.set i (v.extractLsb' 0 8) }
  | .opr => s
  | .status => s
  | .fcsum => s
  | .res => s
  | .acc => s

/-- The host has issued its oldest pending event; `rest` is what it does afterwards (assumption log 1). -/
def State.setPending (s : State) (rest : List HostEvent) : State := { s with pending := rest }

/-- The bus returns a read's value to the host (assumption log 2). -/
def State.answer (s : State) (v : Word) : State := { s with answers := s.answers ++ [v] }

/-- Reset sets every element of the state of 10_state.md R21 to its reset value (70_reset_and_hazards.md R250). It does
not change the catalog (R251). What the host still has to do and what it has read are the host's own and stay (assumption log 6). -/
def State.resetEngine (s : State) : State :=
  { State.reset with catalog := s.catalog, pending := s.pending, answers := s.answers }

end Sys2Proof.Machine
end

