-- ==== Sys2Proof/Machine/Catalog.lean ====
section
/-! DEFINITION. RegisterCatalog (spec/44_register_catalog.md): NAMEOF. -/

namespace Sys2Proof.Machine

/-- `name_index(a)`: the 1-based position of a in the catalog, or 0 (44_register_catalog.md R191). -/
def nameIndex (cat : List CatalogEntry) (a : Half) : Nat :=
  match cat.findIdx? (fun e => e.address == a) with
  | some i => i + 1
  | none => 0

/-- `NAME(i)`: the name of entry i, and "Unknown" at 0 (44_register_catalog.md R191). The table is data: no register
holds a name (00_scope.md R5). For an i above the number of entries R191 gives no name; the model answers "Unknown" there
too. DESIGN CHOICE (assumption log 14), unsafe for a claim about such an i; `nameIndex` never gives one. -/
def nameAt (cat : List CatalogEntry) : Nat → String
  | 0 => "Unknown"
  | i + 1 => (cat[i]?.map CatalogEntry.name).getD "Unknown"

/-- The document's `nameOf(a)`, `NAME(name_index(a))` (44_register_catalog.md R191). -/
def nameOf (cat : List CatalogEntry) (a : Half) : String := nameAt cat (nameIndex cat a)

/-- NAMEOF over a catalog (44_register_catalog.md R192): FormatError when ARG is above 0xFFFF. -/
def nameofIn (cat : List CatalogEntry) (s : State) : Result :=
  match halfOperand s.arg with
  | none => raise .formatError s
  | some a => commit (fun s => s.setRes (BitVec.ofNat 32 (nameIndex cat a))) s

/-- NAMEOF (44_register_catalog.md R192) over the catalog that HEXCORE is configured with (R6, R37; assumption log 5). -/
def execNameof (s : State) : Result := nameofIn s.catalog s

end Sys2Proof.Machine
end

