-- ==== Sys2Proof/Machine/ByteOrder.lean ====
section
/-! DEFINITION. ByteOrderConverter (spec/40_byte_order.md): CONV and SWAP16. -/

namespace Sys2Proof.Machine

/-- `swap16(r)`: the high byte is r's low byte and the low byte is r's high byte (40_byte_order.md R100). -/
def swap16 (r : Half) : Half := r.extractLsb' 0 8 ++ r.extractLsb' 8 8

/-- The low n bytes of v, least significant first: `byte_0(v)` up to byte n - 1. -/
def leBytes (v : Word) (n : Nat) : List Byte := (List.range n).map (byteOf v)

/-- `rev_min(v)`: the minimal byte representation of v, reversed (40_byte_order.md R101). The rule's sum of
`byte_i(v) << (8 * (n - 1 - i))` over i below n = nbytes(v) is `be_value` of the bytes from `byte_0` on. -/
def revMin (v : Word) : Word := BitVec.ofNat 32 (beValue (leBytes v (nbytes v)))

/-- CONV (40_byte_order.md R102): no error condition. -/
def execConv (s : State) : Result := commit (fun s => s.setRes (revMin s.arg)) s

/-- SWAP16 (40_byte_order.md R103): FormatError when ARG is above 0xFFFF. -/
def execSwap16 (s : State) : Result :=
  match halfOperand s.arg with
  | none => raise .formatError s
  | some r => commit (fun s => s.setRes ((swap16 r).setWidth 32)) s

end Sys2Proof.Machine
end

