-- ==== Sys2Proof/Machine/Checksum.lean ====
section
/-! DEFINITION. ChecksumCodec (spec/41_checksum.md): CSINIT, CSBYTE and CSVERIFY. The checksum is subtractive
(spec/90_conflicts.md C6). -/

namespace Sys2Proof.Machine

/-- One step of the accumulator: `(acc - b) mod 256` (41_checksum.md R120, R127). -/
def checksumStep (acc b : Byte) : Byte := acc - b

/-- `checksum(bs)`: the accumulator started at 0x55 (41_checksum.md R120). -/
def checksum (bs : List Byte) : Byte := bs.foldl checksumStep Config.csumSeed

/-- `verify(bs, c)` (41_checksum.md R122). -/
def verify (bs : List Byte) (c : Byte) : Bool := checksum bs == c

/-- CSINIT (41_checksum.md R123). -/
def execCsinit (s : State) : Result := commit (fun s => s.setAcc Config.csumSeed) s

/-- CSBYTE (41_checksum.md R124): FormatError when ARG is above 0xFF. -/
def execCsbyte (s : State) : Result :=
  match byteOperand s.arg with
  | none => raise .formatError s
  | some b => commit (fun s => s.setAcc (checksumStep s.acc b)) s

/-- CSVERIFY (41_checksum.md R125): a mismatch is RES = 0 and no error; FormatError when ARG is above 0xFF. -/
def execCsverify (s : State) : Result :=
  match byteOperand s.arg with
  | none => raise .formatError s
  | some c => commit (fun s => s.setRes (if s.acc = c then 1 else 0)) s

end Sys2Proof.Machine
end

