-- ==== Sys2Proof/Machine/FrameDecoder.lean ====
section
/-! DEFINITION. FrameDecoder (spec/43_frame_decoder.md): DECODE. -/

namespace Sys2Proof.Machine

/-- What `decode_fn` returns (43_frame_decoder.md R160). -/
inductive DecodeResult where
  | format
  | checksum
  | ok (f : Frame)
deriving DecidableEq, Repr

/-- `LINE[i]` (00_scope.md R9). decode_fn asks for it below LLEN only, and only when LLEN is at most 17. -/
def charAt (line : Vector Byte Config.lineCap) (i : Nat) : Byte := line.getD i 0

/-- Step 3's test of one character: an uppercase hex digit (43_frame_decoder.md R163). -/
def isHexDigit (c : Byte) : Bool := (hexval c).isSome

/-- The value of a character that step 3 has found to be a hex digit. -/
def digitOf (c : Byte) : Nibble := (hexval c).getD 0

/-- Wire byte `D[j] = 16 * hexval(LINE[1+2j]) + hexval(LINE[2+2j])` (30_encoding.md R78). -/
def wireByte (line : Vector Byte Config.lineCap) (j : Nat) : Byte :=
  16 * (digitOf (charAt line (1 + 2 * j))).setWidth 8 + (digitOf (charAt line (2 + 2 * j))).setWidth 8

/-- The wire bytes `D[a], ..., D[a+n-1]`. -/
def wireBytes (line : Vector Byte Config.lineCap) (a n : Nat) : List Byte :=
  (List.range' a n).map (wireByte line)

/-- Step 4, the fields over the wire bytes `D[0..m-1]`, with m = k + 4 (30_encoding.md R79 to R81;
43_frame_decoder.md R164). -/
def frameOf (line : Vector Byte Config.lineCap) (k : Nat) : Frame where
  command := wireByte line 0
  register := swap16 (wireByte line 1 ++ wireByte line 2)
  present := if k = 0 then 0 else 1
  width := k
  payload := if k = 0 then 0 else revMin (BitVec.ofNat 32 (beValue (wireBytes line 3 k)))
  checksum := wireByte line (k + 3)

/-- `decode_fn(L, LINE)`: the first failing step decides (43_frame_decoder.md R160). -/
def decodeFn (len : Word) (line : Vector Byte Config.lineCap) : DecodeResult :=
  if ¬ len.toNat ∈ Config.validLlen then .format
  else if charAt line 0 ≠ colon then .format
  else if ¬ (List.range' 1 (len.toNat - 1)).all (fun i => isHexDigit (charAt line i)) then .format
  else
    let m := (len.toNat - 1) / 2
    let f := frameOf line (m - 4)
    if verify (wireBytes line 0 (m - 1)) f.checksum then .ok f else .checksum

/-- DECODE (43_frame_decoder.md R168): FormatError (R161 to R163) before ChecksumError (R167). -/
def execDecode (s : State) : Result :=
  match decodeFn s.llen s.line with
  | .format => raise .formatError s
  | .checksum => raise .checksumError s
  | .ok f => commit (fun s => s.storeFrame f) s

end Sys2Proof.Machine
end

