-- ==== Sys2Proof/Machine/FrameEncoder.lean ====
section
/-! DEFINITION. FrameEncoder (spec/42_frame_encoder.md): ENCODE. -/

namespace Sys2Proof.Machine

/-- Step 1, the header bytes: the command, then the high and the low byte of `swap16(r)` (42_frame_encoder.md R140). -/
def headerBytes (c : Byte) (r : Half) : List Byte :=
  [c, (swap16 r).extractLsb' 8 8, (swap16 r).extractLsb' 0 8]

/-- The width chosen by the magnitude of the CONVERTED payload: 1, 2 or 4 bytes (42_frame_encoder.md R141;
spec/90_conflicts.md C5). -/
def payloadWidth (w : Word) : Nat :=
  if w.toNat < 0x100 then 1 else if w.toNat < 0x10000 then 2 else 4

/-- Step 2, the payload: the converted value w and its width k; k = 0 when there is none (42_frame_encoder.md R141). -/
def payloadField : Option Word → Word × Nat
  | none => (0, 0)
  | some x => (revMin x, payloadWidth (revMin x))

/-- `encode_fn(c, r, p)` (42_frame_encoder.md R140 to R143). -/
def encodeFn (c : Byte) (r : Half) (p : Option Word) : EncodedLine :=
  let w := (payloadField p).1
  let k := (payloadField p).2
  let sum := checksum (headerBytes c r ++ beBytes w k)
  { text := colon :: (hexN (c.setWidth 32) 2 ++ hexN ((swap16 r).setWidth 32) 4 ++ hexN w (2 * k)
              ++ hexN (sum.setWidth 32) 2),
    width := k,
    checksum := sum }

/-- ENCODE (42_frame_encoder.md R144): FormatError when FCMD is above 0xFF or FREG above 0xFFFF (R145). -/
def execEncode (s : State) : Result :=
  match byteOperand s.fcmd, halfOperand s.freg with
  | some c, some r => commit (fun s => s.storeEncoded (encodeFn c r (payloadOperand s))) s
  | _, _ => raise .formatError s

end Sys2Proof.Machine
end

