-- ==== Sys2Proof/Machine/HostInterface.lean ====
section
/-! DEFINITION. NOP (spec/45_host_interface.md R200). -/

namespace Sys2Proof.Machine

/-- NOP: `commit` of nothing at all, STATUS included (45_host_interface.md R200). -/
def execNop (s : State) : Result := .next s

end Sys2Proof.Machine
end

