-- ==== Sys2Proof/Machine/Dispatch.lean ====
section
/-! DEFINITION. The dispatch of spec/45_host_interface.md R203: one arm per operation. -/

namespace Sys2Proof.Machine

def exec (i : Instr) (s : State) : Host.Outcome State Fault Refusal :=
  match i with
  | .nop => Sys2Proof.Machine.execNop s
  | .encode => Sys2Proof.Machine.execEncode s
  | .decode => Sys2Proof.Machine.execDecode s
  | .conv => Sys2Proof.Machine.execConv s
  | .swap16 => Sys2Proof.Machine.execSwap16 s
  | .csinit => Sys2Proof.Machine.execCsinit s
  | .csbyte => Sys2Proof.Machine.execCsbyte s
  | .csverify => Sys2Proof.Machine.execCsverify s
  | .nameof => Sys2Proof.Machine.execNameof s

end Sys2Proof.Machine
end

