-- ==== Sys2Proof/Machine/Bus.lean ====
section
/-! DEFINITION. What the host can do to HEXCORE: a read, a write, and Reset (spec/45_host_interface.md R201 to R203,
spec/70_reset_and_hazards.md R250). Each is one atomic step (spec/20_memory.md R57, R58). -/

namespace Sys2Proof.Machine

/-- A write of v to OPR performs operation v, or raises IllegalOp (45_host_interface.md R203; 30_encoding.md R72). -/
def performOp (v : Word) (s : State) : Result :=
  match decode v with
  | .op i => exec i s
  | .illegal _ => raise .illegalOp s

/-- `HostWrite(idx, v)` (45_host_interface.md R202): a reserved index ignores the write (10_state.md R36). -/
def hostWrite (idx : Index) (v : Word) (s : State) : Result :=
  match regAt idx with
  | some .opr => performOp v s
  | some r => .next (s.writeReg v r)
  | none => .next s

/-- One host event, taken from beginning to end. A read changes no state of HEXCORE (45_host_interface.md R201). -/
def hostEvent (e : HostEvent) (s : State) : Result :=
  match e with
  | .txn (.read idx) => .next (s.answer (hostRead s idx))
  | .txn (.write idx v) => hostWrite idx v s
  | .reset => .next s.resetEngine

/-- HEXCORE takes the host's oldest pending event. With none it waits for the first one (70_reset_and_hazards.md R252),
which is a step that changes nothing (DEDUCED, assumption log 3). -/
def nextEvent (s : State) : Result :=
  match s.pending with
  | [] => .next s
  | e :: rest => hostEvent e (s.setPending rest)

/-- The host's next transaction is the OPR write of the operation word that `nbits` table bits `w` stand for
(assumption log 4). -/
def issueOp (s : State) (nbits w : Nat) : State :=
  s.setPending (.txn (.write HostReg.opr.index (BitVec.ofNat 32 (w % 2 ^ nbits))) :: s.pending)

end Sys2Proof.Machine
end

