-- ==== Sys2Proof/Machine/Step.lean ====
section
/-! DEFINITION. The step function. -/

namespace Sys2Proof.Machine

/-- One step of the transaction model (spec/70_reset_and_hazards.md R258): the host's next event, whole. -/
def step (s : State) : Host.Outcome State Fault Refusal := nextEvent s

/-- HEXCORE has no program counter and fetches nothing (spec/10_state.md R39): an operation runs because the host
writes its word to OPR. So the word is placed as the host's next transaction (assumption log 4). -/
def State.withFetchWord (s : State) (nbits w : Nat) : State := issueOp s nbits w

end Sys2Proof.Machine
end

