-- ==== Sys2Proof/Safety.lean ====
section
/-! DEFINITION. What counts as a safe run of HEXCORE, and the terms its claims are stated in. -/

namespace Sys2Proof.Safety

open Sys2Proof.Machine

/-- FPCTL.WIDTH holds one of its legal values, 0, 1, 2 and 4 (spec/10_state.md R29). -/
abbrev LegalWidth (s : State) : Prop := s.width = 0 ∨ s.width = 1 ∨ s.width = 2 ∨ s.width = 4

/-- A step from s goes on: no fault and no refusal (spec/45_host_interface.md R205). -/
abbrev Goes (s : State) : Prop := ∃ t, step s = .next t

/-- A run of n steps from s is safe when none of them stops. -/
abbrev SafeRun (n : Nat) (s : State) : Prop := ∃ t, Sys2Proof.core.run n s = .next t

/-- The states a host can bring HEXCORE to from reset, whatever it does (spec/45_host_interface.md R205) and with
whatever catalog it is configured (spec/44_register_catalog.md R193). -/
inductive Reachable : State → Prop where
  | start (cat : List CatalogEntry) (events : List HostEvent) :
      catalogWellFormed cat = true → Reachable ((State.configured cat).setPending events)
  | step (s t : State) : Reachable s → Machine.step s = .next t → Reachable t

/-- Every element of the state of spec/10_state.md R21 has the reset value of spec/70_reset_and_hazards.md R250. -/
abbrev HasResetValues (s : State) : Prop :=
  s.err = 0 ∧ s.fcmd = 0x00000000 ∧ s.freg = 0x00000000 ∧ s.fpay = 0x00000000 ∧ s.present = 0 ∧ s.width = 0 ∧
    s.fcsum = 0x00 ∧ s.llen = 0x00000000 ∧ s.arg = 0x00000000 ∧ s.res = 0x00000000 ∧ s.acc = 0x55 ∧
    ∀ i : Fin Config.lineCap, s.line[i] = 0x00

/-- The two uppercase hex digits of a byte, most significant first: `hex_2` (spec/00_scope.md R11). -/
def hexPair (b : Byte) : List Byte := [hexchar (b.extractLsb' 4 4), hexchar (b.extractLsb' 0 4)]

/-- The text of a sequence of wire bytes: ':' and then each byte as two digits (spec/42_frame_encoder.md R147). -/
def textOf (bs : List Byte) : List Byte := colon :: bs.flatMap hexPair

/-- LINE and LLEN hold the line of these wire bytes, its text in transmit order (spec/20_memory.md R53). LINE past the
text may hold anything. -/
abbrev HoldsLine (s : State) (bs : List Byte) : Prop :=
  s.llen.toNat = (textOf bs).length ∧ s.line.toList.take (textOf bs).length = textOf bs

/-- The payload widths in bytes, 0 when absent (spec/30_encoding.md R76). -/
abbrev PayloadBytes (k : Nat) : Prop := k = 0 ∨ k = 1 ∨ k = 2 ∨ k = 4

/-- The sum of a sequence of bytes, as a number. -/
def byteSum (bs : List Byte) : Nat := (bs.map BitVec.toNat).sum

/-- All four bytes of a word. -/
def wordBytes (v : Word) : List Byte := [byteOf v 0, byteOf v 1, byteOf v 2, byteOf v 3]

/-- `s` with bit b of the character LINE[i] flipped. -/
def flipBit (s : State) (i : Fin Config.lineCap) (b : Fin 8) : State :=
  { s with line := s.line.set i (s.line[i] ^^^ (1#8 <<< b.val)) }

end Sys2Proof.Safety
end

