-- ==== Sys2Proof/Certificates/Slice0/Obligations.lean ====
section
/-! DEFINITION. The statements about HEXCORE, each a formalisation of rules of spec/ (OBLIGATIONS.json cites them). -/

open Sys2Proof Sys2Proof.Machine Sys2Proof.Safety

/-! ### Reset -/

/-- R250: Reset, an event of its own, sets every element of the state to its reset value, and so the machine starts. -/
def Obligations.ResetSetsEveryElement : Prop :=
  HasResetValues State.reset ∧ ∀ s : State, ∃ t, hostEvent .reset s = .next t ∧ HasResetValues t

/-! ### Encodings -/

/-- R71: the opcode map, each value written out. -/
def Obligations.OpcodeMapValues : Prop :=
  decode 0x00000000 = .op .nop ∧ decode 0x00000001 = .op .encode ∧ decode 0x00000002 = .op .decode ∧
    decode 0x00000003 = .op .conv ∧ decode 0x00000004 = .op .swap16 ∧ decode 0x00000005 = .op .csinit ∧
    decode 0x00000006 = .op .csbyte ∧ decode 0x00000007 = .op .csverify ∧ decode 0x00000008 = .op .nameof

/-- R70, R71: for every well-formed operation, the decoder reads it from its own word and from no other. -/
def Obligations.DecodeReadsExactlyTheEncodedWord : Prop :=
  ∀ (i : Instr) (v : Word), i.wellFormed = true → (decode v = .op i ↔ v = encode i)

/-- R72: every OP value from 9 on is illegal, and writing one has one effect, ERR <- 3. -/
def Obligations.OtherOpcodesRaiseIllegalOp : Prop :=
  ∀ (v : Word) (s : State), 0x00000009 ≤ v.toNat →
    decode v = .illegal v ∧ hostWrite 0x00 v s = .next { s with err := 3 }

/-- R86: the 40-bit word of a transaction has its fields at the places the rule gives, the rule's four examples come
out, and decoding and encoding are inverse both ways. -/
def Obligations.TransactionWordsRoundTrip : Prop :=
  (∀ (idx : Index) (v : Word),
      (encodeTransaction (.write idx v)).toNat = 2 ^ 38 + idx.toNat * 2 ^ 32 + v.toNat ∧
        (encodeTransaction (.read idx)).toNat = idx.toNat * 2 ^ 32) ∧
    (encodeTransaction (.write HostReg.fcmd.index 0x07) = 0x4200000007 ∧
      encodeTransaction (.write HostReg.opr.index (encode .encode)) = 0x4000000001 ∧
      encodeTransaction (.read HostReg.status.index) = 0x0100000000 ∧
      encodeTransaction (.write (HostReg.line 0).index (colon.setWidth 32)) = 0x500000003A) ∧
    (∀ x : Transaction, decodeTransaction (encodeTransaction x) = some x) ∧
    ∀ (w : BitVec 40) (x : Transaction), decodeTransaction w = some x → encodeTransaction x = w

/-- R85: `wline` writes its characters to LINE[0..n-1] and its length to LLEN, and leaves LINE[n..16] as they were.
The host's transactions reach the machine through `pending`, the model's own field (assumption log 1). -/
def Obligations.WlineLoadsTheLine : Prop :=
  ∀ (s : State) (llen : Word) (chars : List Byte) (ts : List Transaction) (rest : List HostEvent),
    assemble llen (.wline chars) = some ts → s.pending = ts.map .txn ++ rest →
    Sys2Proof.core.run (chars.length + 1) s =
      .next { s with
        line := Vector.ofFn fun i => (chars[i.val]?).getD s.line[i],
        llen := BitVec.ofNat 32 chars.length,
        pending := rest }

/-! ### Steps and the host's accesses -/

/-- A host write of v to OPR, the next thing the host does, performs the operation that v decodes to: the step is exec
of it on the state in which that write is no longer pending. `pending` is the model's own (assumption logs 1 and 4). -/
def Obligations.StepRunsTheDecodedOperation : Prop :=
  ∀ (s : State) (v : Word) (rest : List HostEvent) (i : Instr),
    s.pending = .txn (.write 0x00 v) :: rest → decode v = .op i → i.wellFormed = true →
    step s = exec i { s with pending := rest }

/-- A step is the host's oldest event, whole; with none, HEXCORE waits (R252). The queue and the idle step are the
model's choice (assumption logs 1 and 3). -/
def Obligations.StepTakesTheOldestEvent : Prop :=
  (∀ (s : State) (e : HostEvent) (rest : List HostEvent),
      s.pending = e :: rest → step s = hostEvent e { s with pending := rest }) ∧
    ∀ s : State, s.pending = [] → step s = .next s

/-- R201: what a host read returns, index by index, and that it changes no state of HEXCORE (the list of returned
values is the host's). -/
def Obligations.HostReadFollowsTheMap : Prop :=
  ∀ (s : State) (idx : Index),
    hostRead s idx =
      (if idx = 0x00 then 0x00000000
       else if idx = 0x01 then s.err.setWidth 32
       else if idx = 0x02 then s.fcmd
       else if idx = 0x03 then s.freg
       else if idx = 0x04 then s.fpay
       else if idx = 0x05 then s.present.setWidth 32 ||| (s.width.setWidth 32 <<< 4)
       else if idx = 0x06 then s.fcsum.setWidth 32
       else if idx = 0x07 then s.llen
       else if idx = 0x08 then s.arg
       else if idx = 0x09 then s.res
       else if idx = 0x0A then s.acc.setWidth 32
       else if 0x10 ≤ idx.toNat ∧ idx.toNat ≤ 0x20 then ((s.line[idx.toNat - 0x10]?).getD 0).setWidth 32
       else 0x00000000) ∧
      ∃ t, hostEvent (.txn (.read idx)) s = .next t ∧ { t with answers := s.answers } = s

/-- The value of a host read is appended to `answers`, the model's own record of what the host has been given
(assumption log 2). -/
def Obligations.HostReadIsAnswered : Prop :=
  ∀ (s : State) (idx : Index),
    hostEvent (.txn (.read idx)) s = .next { s with answers := s.answers ++ [hostRead s idx] }

/-- R202: what a host write does, index by index. -/
def Obligations.HostWriteFollowsTheMap : Prop :=
  ∀ (s : State) (idx : Index) (v : Word),
    hostWrite idx v s =
      if idx = 0x00 then performOp v s
      else .next
        (if idx = 0x02 then { s with fcmd := v }
         else if idx = 0x03 then { s with freg := v }
         else if idx = 0x04 then { s with fpay := v }
         else if idx = 0x05 then { s with present := v.extractLsb' 0 1 }
         else if idx = 0x07 then { s with llen := v }
         else if idx = 0x08 then { s with arg := v }
         else if 0x10 ≤ idx.toNat ∧ idx.toNat ≤ 0x20 then
           { s with line := s.line.setIfInBounds (idx.toNat - 0x10) (v.extractLsb' 0 8) }
         else s)

/-- R36: a reserved index reads 0 and ignores writes, without error. -/
def Obligations.ReservedIndicesAreInert : Prop :=
  ∀ (s : State) (idx : Index) (v : Word),
    (0x0B ≤ idx.toNat ∧ idx.toNat ≤ 0x0F) ∨ (0x21 ≤ idx.toNat ∧ idx.toNat ≤ 0x3F) →
    hostRead s idx = 0x00000000 ∧ hostWrite idx v s = .next s

/-- R60, R64: after a host write to an index other than OPR, a read of it gives the bits that the register implements
and the host may write, and its other bits as before. -/
def Obligations.ReadAfterWrite : Prop :=
  ∀ (s t : State) (idx : Index) (v : Word), idx ≠ 0x00 → hostWrite idx v s = .next t →
    hostRead t idx =
      if idx = 0x02 ∨ idx = 0x03 ∨ idx = 0x04 ∨ idx = 0x07 ∨ idx = 0x08 then v
      else if idx = 0x05 then (hostRead s idx &&& 0x00000070) ||| (v &&& 0x00000001)
      else if 0x10 ≤ idx.toNat ∧ idx.toNat ≤ 0x20 then v &&& 0x000000FF
      else hostRead s idx

/-- R22, R38: no register is an alias of another: a write to an index other than OPR changes no other index. -/
def Obligations.NoIndexIsAnAlias : Prop :=
  ∀ (s t : State) (idx other : Index) (v : Word), idx ≠ 0x00 → other ≠ idx → hostWrite idx v s = .next t →
    hostRead t other = hostRead s other

/-- R61: repeating a write to a register other than OPR changes nothing further. -/
def Obligations.WriteIsIdempotent : Prop :=
  ∀ (s t : State) (idx : Index) (v : Word), idx ≠ 0x00 → hostWrite idx v s = .next t → hostWrite idx v t = .next t

/-- R61: a register changes only through a host write to it, an operation that writes it, or reset. -/
def Obligations.EveryChangeHasItsCause : Prop :=
  ∀ (e : HostEvent) (s t : State), hostEvent e s = .next t → e ≠ .reset →
    (t.err ≠ s.err → ∃ v, e = .txn (.write 0x00 v) ∧ v ≠ encode .nop) ∧
    (t.fcmd ≠ s.fcmd → (∃ v, e = .txn (.write 0x02 v)) ∨ e = .txn (.write 0x00 (encode .decode))) ∧
    (t.freg ≠ s.freg → (∃ v, e = .txn (.write 0x03 v)) ∨ e = .txn (.write 0x00 (encode .decode))) ∧
    (t.fpay ≠ s.fpay → (∃ v, e = .txn (.write 0x04 v)) ∨ e = .txn (.write 0x00 (encode .decode))) ∧
    (t.present ≠ s.present → (∃ v, e = .txn (.write 0x05 v)) ∨ e = .txn (.write 0x00 (encode .decode))) ∧
    (t.width ≠ s.width → e = .txn (.write 0x00 (encode .encode)) ∨ e = .txn (.write 0x00 (encode .decode))) ∧
    (t.fcsum ≠ s.fcsum → e = .txn (.write 0x00 (encode .encode)) ∨ e = .txn (.write 0x00 (encode .decode))) ∧
    (t.llen ≠ s.llen → (∃ v, e = .txn (.write 0x07 v)) ∨ e = .txn (.write 0x00 (encode .encode))) ∧
    (t.arg ≠ s.arg → ∃ v, e = .txn (.write 0x08 v)) ∧
    (t.res ≠ s.res → e = .txn (.write 0x00 (encode .conv)) ∨ e = .txn (.write 0x00 (encode .swap16)) ∨
      e = .txn (.write 0x00 (encode .csverify)) ∨ e = .txn (.write 0x00 (encode .nameof))) ∧
    (t.acc ≠ s.acc → e = .txn (.write 0x00 (encode .csinit)) ∨ e = .txn (.write 0x00 (encode .csbyte))) ∧
    ∀ i : Fin Config.lineCap, t.line[i] ≠ s.line[i] →
      (∃ v, e = .txn (.write (HostReg.line i).index v)) ∨ e = .txn (.write 0x00 (encode .encode))

/-! ### The operations, one by one -/

/-- R200: NOP writes nothing, STATUS included. -/
def Obligations.NopWritesNothing : Prop :=
  ∀ s : State, exec .nop s = .next s ∧ hostWrite 0x00 0x00000000 s = .next s

/-- R101, R102: CONV writes RES with the reversal of ARG's n significant bytes, n the minimal byte count, and ERR with
0; nothing else changes. -/
def Obligations.ConvReversesTheMinimalBytes : Prop :=
  ∀ s : State, ∃ (n : Nat) (r : Word),
    (1 ≤ n ∧ n ≤ 4 ∧ s.arg.toNat < 256 ^ n ∧ (n = 1 ∨ 256 ^ (n - 1) ≤ s.arg.toNat)) ∧
      r.toNat = ∑ i ∈ Finset.range n, s.arg.toNat / 256 ^ i % 256 * 256 ^ (n - 1 - i) ∧
      exec .conv s = .next { s with res := r, err := 0 }

/-- R103: SWAP16 writes RES with ARG's two bytes exchanged and ERR with 0; when ARG is above 0xFFFF it writes only
ERR, with 1. -/
def Obligations.Swap16ExchangesTwoBytes : Prop :=
  ∀ s : State,
    (s.arg.toNat ≤ 0xFFFF → ∃ r : Word, r.toNat = s.arg.toNat % 256 * 256 + s.arg.toNat / 256 ∧
      exec .swap16 s = .next { s with res := r, err := 0 }) ∧
    (0xFFFF < s.arg.toNat → exec .swap16 s = .next { s with err := 1 })

/-- R123: CSINIT writes ACC with 0x55 and ERR with 0; nothing else changes. -/
def Obligations.CsinitSeedsTheAccumulator : Prop :=
  ∀ s : State, exec .csinit s = .next { s with acc := 0x55, err := 0 }

/-- R124: CSBYTE subtracts ARG from ACC mod 256 and writes ERR with 0; when ARG is above 0xFF it writes only ERR,
with 1. -/
def Obligations.CsbyteSubtractsTheByte : Prop :=
  ∀ s : State,
    (s.arg.toNat ≤ 0xFF → ∃ a : Byte, (a.toNat : Int) = ((s.acc.toNat : Int) - (s.arg.toNat : Int)) % 256 ∧
      exec .csbyte s = .next { s with acc := a, err := 0 }) ∧
    (0xFF < s.arg.toNat → exec .csbyte s = .next { s with err := 1 })

/-- R125: CSVERIFY writes RES with 1 or 0 as ACC is ARG or not, and ERR with 0 either way; when ARG is above 0xFF it
writes only ERR, with 1. -/
def Obligations.CsverifyComparesTheAccumulator : Prop :=
  ∀ s : State,
    (s.arg.toNat ≤ 0xFF →
      exec .csverify s = .next { s with res := if s.acc.toNat = s.arg.toNat then 1 else 0, err := 0 }) ∧
    (0xFF < s.arg.toNat → exec .csverify s = .next { s with err := 1 })

/-- R144, R145: ENCODE of in-range operands writes LINE with the ':' and the uppercase digits of the wire bytes,
padded with 0x00, LLEN with 9 + 2k, FCSUM with the checksum of the bytes before it, FPCTL.WIDTH with k and ERR with 0;
nothing else changes. w is the converted payload and k its width. When FCMD or FREG is out of range it writes only ERR,
with 1. -/
def Obligations.EncodeBuildsTheLine : Prop :=
  ∀ s : State,
    (s.fcmd.toNat ≤ 0xFF → s.freg.toNat ≤ 0xFFFF →
      ∃ (w : Word) (k : Nat) (body text : List Byte),
        (s.present = 0 → k = 0) ∧
        (s.present = 1 → w = revMin s.fpay ∧
          k = if w.toNat < 0x100 then 1 else if w.toNat < 0x10000 then 2 else 4) ∧
        body = [byteOf s.fcmd 0, byteOf s.freg 0, byteOf s.freg 1] ++ beBytes w k ∧
        text = textOf (body ++ [checksum body]) ∧
        exec .encode s = .next { s with
          line := Vector.ofFn fun i => (text[i.val]?).getD 0x00,
          llen := BitVec.ofNat 32 (9 + 2 * k),
          fcsum := checksum body,
          width := BitVec.ofNat 3 k,
          err := 0 }) ∧
    (0xFF < s.fcmd.toNat ∨ 0xFFFF < s.freg.toNat → exec .encode s = .next { s with err := 1 })

/-- R146: ENCODE depends on FCMD, FREG, PRESENT and, when PRESENT = 1, FPAY alone, and for in-range operands it always
succeeds. -/
def Obligations.EncodeIsDeterminedByItsOperands : Prop :=
  (∀ s s' t t' : State, s.fcmd = s'.fcmd → s.freg = s'.freg → s.present = s'.present →
      (s.present = 1 → s.fpay = s'.fpay) → exec .encode s = .next t → exec .encode s' = .next t' →
      t.err = t'.err ∧
        (t.err = 0 → t.line = t'.line ∧ t.llen = t'.llen ∧ t.fcsum = t'.fcsum ∧ t.width = t'.width)) ∧
    ∀ s : State, s.fcmd.toNat ≤ 0xFF → s.freg.toNat ≤ 0xFFFF → ∃ t, exec .encode s = .next t ∧ t.err = 0

/-- R54: a payload whose low byte is not 0, encoded in exactly its own bytes, is sent least significant byte first. -/
def Obligations.PayloadIsSentLowByteFirst : Prop :=
  ∀ s t : State, exec .encode s = .next t → t.err = 0 → s.present = 1 → byteOf s.fpay 0 ≠ 0 →
    t.width.toNat = nbytes s.fpay →
    ∀ j : Nat, j < nbytes s.fpay → wireByte t.line (3 + j) = byteOf s.fpay j

/-- R164, R167: DECODE of a line with the wire bytes c, d1, d2, the payload bytes ps and the checksum byte x. When the
checksum of the bytes before it is x, DECODE writes FCMD, FREG, FPAY, PRESENT, WIDTH, FCSUM and ERR as the rule says and
nothing else; when it is not, DECODE writes only ERR, with 2. -/
def Obligations.DecodeParsesTheLine : Prop :=
  ∀ (s : State) (c d1 d2 x : Byte) (ps : List Byte), PayloadBytes ps.length →
    HoldsLine s (c :: d1 :: d2 :: (ps ++ [x])) →
    (checksum (c :: d1 :: d2 :: ps) = x →
      exec .decode s = .next { s with
        fcmd := c.setWidth 32,
        freg := BitVec.ofNat 32 (d2.toNat * 256 + d1.toNat),
        fpay := if ps.length = 0 then 0 else revMin (BitVec.ofNat 32 (beValue ps)),
        present := if ps.length = 0 then 0 else 1,
        width := BitVec.ofNat 3 ps.length,
        fcsum := x,
        err := 0 }) ∧
    (checksum (c :: d1 :: d2 :: ps) ≠ x → exec .decode s = .next { s with err := 2 })

/-- R161 to R163: a length other than 9, 11, 13 and 17, a first character other than ':', or a later character of the
line that is not '0' to '9' or 'A' to 'F' is a FormatError, whatever the checksum, and writes only ERR. -/
def Obligations.DecodeRejectsMalformedLines : Prop :=
  ∀ s : State,
    ((s.llen.toNat ≠ 9 ∧ s.llen.toNat ≠ 11 ∧ s.llen.toNat ≠ 13 ∧ s.llen.toNat ≠ 17) ∨ s.line[0] ≠ 0x3A ∨
      ∃ i : Fin Config.lineCap, 1 ≤ i.val ∧ i.val < s.llen.toNat ∧
        ¬ (0x30 ≤ s.line[i].toNat ∧ s.line[i].toNat ≤ 0x39) ∧
        ¬ (0x41 ≤ s.line[i].toNat ∧ s.line[i].toNat ≤ 0x46)) →
    exec .decode s = .next { s with err := 1 }

/-- R160: DECODE succeeds only on a line whose wire bytes have one of the four layouts and end in the checksum of the
bytes before it. -/
def Obligations.DecodeAcceptsOnlyCheckedLines : Prop :=
  ∀ s t : State, exec .decode s = .next t → t.err = 0 →
    ∃ (bs : List Byte) (x : Byte) (k : Nat), PayloadBytes k ∧ bs.length = k + 3 ∧
      HoldsLine s (bs ++ [x]) ∧ checksum bs = x

/-- R160: DECODE reads LLEN and no LINE entry at LLEN or above. -/
def Obligations.DecodeReadsOnlyTheLine : Prop :=
  ∀ s s' t t' : State, s.llen = s'.llen →
    (∀ i : Fin Config.lineCap, i.val < s.llen.toNat → s.line[i] = s'.line[i]) →
    exec .decode s = .next t → exec .decode s' = .next t' →
    t.err = t'.err ∧
      (t.err = 0 → t.fcmd = t'.fcmd ∧ t.freg = t'.freg ∧ t.fpay = t'.fpay ∧ t.present = t'.present ∧
        t.width = t'.width ∧ t.fcsum = t'.fcsum)

/-- R192: NAMEOF, on a HEXCORE configured with any well-formed catalog, writes RES with the 1-based position of the
address in it, or 0, and ERR with 0; when ARG is above 0xFFFF it writes only ERR, with 1. The catalog is the argument of
R6, which the model carries in State (assumption log 5). -/
def Obligations.NameofFindsThePositionInAnyCatalog : Prop :=
  ∀ s : State, catalogWellFormed s.catalog = true →
    (s.arg.toNat ≤ 0xFFFF → ∃ r : Word,
      ((r = 0 ∧ ∀ e ∈ s.catalog, e.address.toNat ≠ s.arg.toNat) ∨
        ∃ i : Fin s.catalog.length, r.toNat = i.val + 1 ∧ s.catalog[i].address.toNat = s.arg.toNat) ∧
      exec .nameof s = .next { s with res := r, err := 0 }) ∧
    (0xFFFF < s.arg.toNat → exec .nameof s = .next { s with err := 1 })

/-- R190, R192: NAMEOF with the default catalog, address by address. That State carries the catalog is the model's
choice (assumption log 5). -/
def Obligations.NameofWithTheDefaultCatalog : Prop :=
  ∀ s : State, s.catalog = Config.defaultCatalog →
    (s.arg.toNat ≤ 0xFFFF →
      exec .nameof s = .next { s with
        res :=
          if s.arg = 0x0200 then 1 else if s.arg = 0x0201 then 2 else if s.arg = 0x0207 then 3
          else if s.arg = 0xEDD5 then 4 else if s.arg = 0xEDF0 then 5 else if s.arg = 0xEDF6 then 6 else 0,
        err := 0 }) ∧
    (0xFFFF < s.arg.toNat → exec .nameof s = .next { s with err := 1 })

/-- R191: over any well-formed catalog, nameOf gives the name of the entry with the address, and "Unknown" when no entry
has it. -/
def Obligations.NameOfGivesTheEntryName : Prop :=
  ∀ (cat : List CatalogEntry) (a : Half), catalogWellFormed cat = true →
    (∀ e ∈ cat, e.address = a → nameOf cat a = e.name) ∧
    ((∀ e ∈ cat, e.address ≠ a) → nameOf cat a = "Unknown")

/-- R190: the default catalog's entries, in order, with their names; its addresses are distinct. -/
def Obligations.DefaultCatalogEntries : Prop :=
  Config.defaultCatalog.map (fun e => (e.address, e.name)) =
      [(0x0200, "DeviceModeRegister"), (0x0201, "DeviceStateRegister"), (0x0207, "DeviceOffReasonRegister"),
        (0xEDD5, "ChargerVoltageRegister"), (0xEDF0, "BatteryMaximumCurrentRegister"),
        (0xEDF6, "BatteryFloatVoltageRegister")] ∧
    catalogWellFormed Config.defaultCatalog = true

/-! ### The conversions and the checksum -/

/-- R10: be_value and be_bytes are inverse, in both directions, on values that fit. -/
def Obligations.BigEndianBytesAreInverse : Prop :=
  (∀ (v : Word) (k : Nat), v.toNat < 2 ^ (8 * k) → (beBytes v k).length = k ∧ beValue (beBytes v k) = v.toNat) ∧
    ∀ bs : List Byte, bs.length ≤ 4 → beBytes (BitVec.ofNat 32 (beValue bs)) bs.length = bs

/-- R104: rev_min is its own inverse exactly on 0 and the values whose low byte is not 0. -/
def Obligations.RevMinInvolutionDomain : Prop :=
  ∀ v : Word, revMin (revMin v) = v ↔ v = 0 ∨ byteOf v 0 ≠ 0

/-- R105: swap16 is its own inverse on every 16-bit value. -/
def Obligations.Swap16IsAnInvolution : Prop :=
  ∀ r : Half, swap16 (swap16 r) = r

/-- R106: from 0x0100 on, and at 0, the two conversions agree; from 0x01 to 0xFF they differ as the rule says; every
register of the default catalog is where they agree. -/
def Obligations.ConversionsAgreeFromTwoBytesOn : Prop :=
  (∀ r : Half, 0x0100 ≤ r.toNat → revMin (r.setWidth 32) = (swap16 r).setWidth 32) ∧
    (revMin 0 = 0 ∧ swap16 0 = 0) ∧
    (∀ r : Half, 0x01 ≤ r.toNat → r.toNat ≤ 0xFF →
      revMin (r.setWidth 32) = r.setWidth 32 ∧ swap16 r = r <<< 8 ∧
        revMin (r.setWidth 32) ≠ (swap16 r).setWidth 32) ∧
    ∀ e ∈ Config.defaultCatalog, 0x0100 ≤ e.address.toNat

/-- R107: neither conversion changes the sum of the bytes. -/
def Obligations.ConversionsKeepTheByteSum : Prop :=
  (∀ v : Word, byteSum (wordBytes (revMin v)) = byteSum (wordBytes v)) ∧
    ∀ r : Half, byteSum (wordBytes ((swap16 r).setWidth 32)) = byteSum (wordBytes (r.setWidth 32))

/-- R121: the closed form of the checksum. -/
def Obligations.ChecksumClosedForm : Prop :=
  ∀ bs : List Byte, ((checksum bs).toNat : Int) = (0x55 - (byteSum bs : Int)) % 256

/-- R128: what the checksum detects and what it does not. -/
def Obligations.ChecksumDetection : Prop :=
  (∀ (as bs : List Byte) (b c : Byte), b ≠ c → checksum (as ++ b :: bs) ≠ checksum (as ++ c :: bs)) ∧
    (∀ as bs : List Byte, as.Perm bs → checksum as = checksum bs) ∧
    (∀ as bs : List Byte, checksum (as ++ 0x00 :: bs) = checksum (as ++ bs)) ∧
    ∀ (as bs cs : List Byte) (b b' c c' : Byte), (b' - b) + (c' - c) = 0 →
      checksum (as ++ b :: (bs ++ c :: cs)) = checksum (as ++ b' :: (bs ++ c' :: cs))

/-- R120, R124: when ACC is the checksum of the bytes streamed so far, CSBYTE leaves it the checksum of those bytes and
the one in ARG. -/
def Obligations.CsbyteExtendsTheChecksum : Prop :=
  ∀ (s : State) (bs : List Byte), s.acc = checksum bs → s.arg.toNat ≤ 0xFF →
    ∃ t, exec .csbyte s = .next t ∧ t.err = 0 ∧ t.acc = checksum (bs ++ [byteOf s.arg 0])

/-! ### ENCODE and DECODE together -/

/-- R170: an ENCODE that succeeds, then a DECODE with LINE and LLEN as ENCODE left them (whatever else the host has
changed), gives the frame back, the payload as rev_min twice. -/
def Obligations.DecodeOfEncodeRoundTrip : Prop :=
  ∀ s : State, s.fcmd.toNat ≤ 0xFF → s.freg.toNat ≤ 0xFFFF →
    ∃ t, exec .encode s = .next t ∧ t.err = 0 ∧
      ∀ u : State, u.line = t.line → u.llen = t.llen →
        ∃ v, exec .decode u = .next v ∧ v.err = 0 ∧ v.fcmd = s.fcmd ∧ v.freg = s.freg ∧ v.present = s.present ∧
          v.width = t.width ∧ v.fcsum = t.fcsum ∧
          (s.present = 0 → v.fpay = 0) ∧
          (s.present = 1 → v.fpay = revMin (revMin s.fpay) ∧
            (v.fpay = s.fpay ↔ s.fpay = 0 ∨ byteOf s.fpay 0 ≠ 0))

/-- R171: the bytes ENCODE would build again from a decoded frame have the checksum that the line carried. -/
def Obligations.ReencodingKeepsTheChecksum : Prop :=
  ∀ s t : State, exec .decode s = .next t → t.err = 0 →
    ∃ u, exec .encode t = .next u ∧ u.err = 0 ∧ u.fcsum = t.fcsum

/-- R172: in a line that DECODE accepts, a flip of any bit of any character makes DECODE fail, with FormatError when the
':' or a digit becomes something else and with ChecksumError when a digit becomes another; and a change of one wire byte
is always a ChecksumError. -/
def Obligations.EverySingleFlipIsDetected : Prop :=
  (∀ (s t : State) (i : Fin Config.lineCap) (b : Fin 8), exec .decode s = .next t → t.err = 0 →
      i.val < s.llen.toNat →
      ∃ u, exec .decode (flipBit s i b) = .next u ∧
        u.err = if i.val = 0 ∨ hexval (flipBit s i b).line[i] = none then 1 else 2) ∧
    ∀ (s s' t : State) (as bs : List Byte) (b c : Byte), b ≠ c → HoldsLine s (as ++ b :: bs) →
      HoldsLine s' (as ++ c :: bs) → exec .decode s = .next t → t.err = 0 →
      ∃ u, exec .decode s' = .next u ∧ u.err = 2

/-! ### Errors and the frame of the whole machine -/

/-- R226: an operation that ends with an error code has written nothing but STATUS.ERR. (NOP, which raises none, writes
nothing.) -/
def Obligations.ErrorsWriteOnlyErr : Prop :=
  ∀ (v : Word) (s t : State), performOp v s = .next t → t.err ≠ 0 → t = { s with err := t.err }

/-- R221: which operations raise which code. -/
def Obligations.ErrorCodesByOperation : Prop :=
  ∀ (i : Instr) (s t : State), exec i s = .next t → i ≠ .nop →
    (t.err = 0 ∨ t.err = 1 ∨ t.err = 2) ∧
    (t.err = 1 → i = .decode ∨ i = .encode ∨ i = .swap16 ∨ i = .csbyte ∨ i = .csverify ∨ i = .nameof) ∧
    (t.err = 2 → i = .decode)

/-- R224: IllegalOp has one cause, a host write to OPR of a value from 9 on. -/
def Obligations.IllegalOpHasOneCause : Prop :=
  ∀ (e : HostEvent) (s t : State), hostEvent e s = .next t → s.err ≠ 3 → t.err = 3 →
    ∃ v : Word, e = .txn (.write 0x00 v) ∧ 0x00000009 ≤ v.toNat

/-- R227: no operation but NOP, and no reset, depends on the ERR that an earlier operation left. -/
def Obligations.ErrIsNotSticky : Prop :=
  ∀ (v : Word) (s : State) (e : BitVec 2), v ≠ 0x00000000 →
    performOp v { s with err := e } = performOp v s ∧ hostEvent .reset { s with err := e } = hostEvent .reset s

/-- R23, its column "written by ops": the registers that each operation leaves unchanged. -/
def Obligations.OperationsWriteOnlyTheirRegisters : Prop :=
  ∀ (i : Instr) (s t : State), exec i s = .next t →
    t.arg = s.arg ∧
    (i = .nop → t.err = s.err) ∧
    (i ≠ .decode → t.fcmd = s.fcmd ∧ t.freg = s.freg ∧ t.fpay = s.fpay ∧ t.present = s.present) ∧
    (i ≠ .encode → i ≠ .decode → t.width = s.width ∧ t.fcsum = s.fcsum) ∧
    (i ≠ .encode → t.llen = s.llen ∧ t.line = s.line) ∧
    (i ≠ .conv → i ≠ .swap16 → i ≠ .csverify → i ≠ .nameof → t.res = s.res) ∧
    (i ≠ .csinit → i ≠ .csbyte → t.acc = s.acc)

/-- R126: ENCODE and DECODE neither read nor write ACC. -/
def Obligations.FrameOperationsIgnoreAcc : Prop :=
  ∀ (i : Instr) (s t : State) (a : Byte), i = .encode ∨ i = .decode → exec i s = .next t →
    exec i { s with acc := a } = .next { t with acc := a }

/-- R205: every operation is total over every state, and so is every host event. The third clause, that no run of any
length from any state stops, rests on the model's choice beside it: a run longer than `pending` goes on by the idle step
of assumption log 3 (DEDUCED), and that a step has no other way to stop is assumption log 7 (DEDUCED). -/
def Obligations.EveryRunGoesOn : Prop :=
  (∀ (i : Instr) (s : State), ∃ t, exec i s = .next t) ∧
    (∀ (e : HostEvent) (s : State), ∃ t, hostEvent e s = .next t) ∧ ∀ (n : Nat) (s : State), SafeRun n s

/-- R29: every step keeps WIDTH at 0, 1, 2 or 4. -/
def Obligations.StepKeepsWidthLegal : Prop :=
  ∀ s t : State, LegalWidth s → step s = .next t → LegalWidth t

/-- R29: after reset WIDTH is legal, whatever the host is about to do. -/
def Obligations.WidthIsLegalAtReset : Prop :=
  ∀ events : List HostEvent, LegalWidth (State.reset.setPending events)

/-! ### The catalog, the configuration that State carries (assumption log 5) -/

/-- R37, R193, R251: no step, and no host event, Reset among them, changes the catalog. That State carries it is the
model's choice (assumption log 5). -/
def Obligations.CatalogNeverChanges : Prop :=
  (∀ s t : State, step s = .next t → t.catalog = s.catalog) ∧
    ∀ (e : HostEvent) (s t : State), hostEvent e s = .next t → t.catalog = s.catalog

/-- R6, R190: the machine after reset is configured with the default catalog, whose addresses are distinct, and
`State.configured` with any other. That State carries the catalog is the model's choice (assumption log 5). -/
def Obligations.ResetCatalogIsTheDefault : Prop :=
  State.reset.catalog = Config.defaultCatalog ∧ catalogWellFormed State.reset.catalog = true ∧
    ∀ cat : List CatalogEntry, (State.configured cat).catalog = cat ∧ HasResetValues (State.configured cat)

/-- R37, R194: no operation but NAMEOF consults the catalog: from the state with any other catalog it answers the same
state, with that catalog. That State carries the catalog is the model's choice (assumption log 5). -/
def Obligations.OnlyNameofReadsTheCatalog : Prop :=
  ∀ (i : Instr) (s t : State) (cat : List CatalogEntry), i ≠ .nameof → exec i s = .next t →
    exec i { s with catalog := cat } = .next { t with catalog := cat }
end

