-- ==== Sys2Proof/Laws/State.lean ====
section
/-! SUPPORT. One lemma per field per update of State, true by rfl, so that no later proof unfolds an update. -/

namespace Sys2Proof.Machine

variable (s : State)

/-! `State.setErr` -/

@[simp] theorem State.setErr_err (e : ErrCode) : (s.setErr e).err = e.bits := rfl
@[simp] theorem State.setErr_fcmd (e : ErrCode) : (s.setErr e).fcmd = s.fcmd := rfl
@[simp] theorem State.setErr_freg (e : ErrCode) : (s.setErr e).freg = s.freg := rfl
@[simp] theorem State.setErr_fpay (e : ErrCode) : (s.setErr e).fpay = s.fpay := rfl
@[simp] theorem State.setErr_present (e : ErrCode) : (s.setErr e).present = s.present := rfl
@[simp] theorem State.setErr_width (e : ErrCode) : (s.setErr e).width = s.width := rfl
@[simp] theorem State.setErr_fcsum (e : ErrCode) : (s.setErr e).fcsum = s.fcsum := rfl
@[simp] theorem State.setErr_llen (e : ErrCode) : (s.setErr e).llen = s.llen := rfl
@[simp] theorem State.setErr_arg (e : ErrCode) : (s.setErr e).arg = s.arg := rfl
@[simp] theorem State.setErr_res (e : ErrCode) : (s.setErr e).res = s.res := rfl
@[simp] theorem State.setErr_acc (e : ErrCode) : (s.setErr e).acc = s.acc := rfl
@[simp] theorem State.setErr_line (e : ErrCode) : (s.setErr e).line = s.line := rfl
@[simp] theorem State.setErr_catalog (e : ErrCode) : (s.setErr e).catalog = s.catalog := rfl
@[simp] theorem State.setErr_pending (e : ErrCode) : (s.setErr e).pending = s.pending := rfl
@[simp] theorem State.setErr_answers (e : ErrCode) : (s.setErr e).answers = s.answers := rfl

/-! `State.setRes` -/

@[simp] theorem State.setRes_err (v : Word) : (s.setRes v).err = s.err := rfl
@[simp] theorem State.setRes_fcmd (v : Word) : (s.setRes v).fcmd = s.fcmd := rfl
@[simp] theorem State.setRes_freg (v : Word) : (s.setRes v).freg = s.freg := rfl
@[simp] theorem State.setRes_fpay (v : Word) : (s.setRes v).fpay = s.fpay := rfl
@[simp] theorem State.setRes_present (v : Word) : (s.setRes v).present = s.present := rfl
@[simp] theorem State.setRes_width (v : Word) : (s.setRes v).width = s.width := rfl
@[simp] theorem State.setRes_fcsum (v : Word) : (s.setRes v).fcsum = s.fcsum := rfl
@[simp] theorem State.setRes_llen (v : Word) : (s.setRes v).llen = s.llen := rfl
@[simp] theorem State.setRes_arg (v : Word) : (s.setRes v).arg = s.arg := rfl
@[simp] theorem State.setRes_res (v : Word) : (s.setRes v).res = v := rfl
@[simp] theorem State.setRes_acc (v : Word) : (s.setRes v).acc = s.acc := rfl
@[simp] theorem State.setRes_line (v : Word) : (s.setRes v).line = s.line := rfl
@[simp] theorem State.setRes_catalog (v : Word) : (s.setRes v).catalog = s.catalog := rfl
@[simp] theorem State.setRes_pending (v : Word) : (s.setRes v).pending = s.pending := rfl
@[simp] theorem State.setRes_answers (v : Word) : (s.setRes v).answers = s.answers := rfl

/-! `State.setAcc` -/

@[simp] theorem State.setAcc_err (b : Byte) : (s.setAcc b).err = s.err := rfl
@[simp] theorem State.setAcc_fcmd (b : Byte) : (s.setAcc b).fcmd = s.fcmd := rfl
@[simp] theorem State.setAcc_freg (b : Byte) : (s.setAcc b).freg = s.freg := rfl
@[simp] theorem State.setAcc_fpay (b : Byte) : (s.setAcc b).fpay = s.fpay := rfl
@[simp] theorem State.setAcc_present (b : Byte) : (s.setAcc b).present = s.present := rfl
@[simp] theorem State.setAcc_width (b : Byte) : (s.setAcc b).width = s.width := rfl
@[simp] theorem State.setAcc_fcsum (b : Byte) : (s.setAcc b).fcsum = s.fcsum := rfl
@[simp] theorem State.setAcc_llen (b : Byte) : (s.setAcc b).llen = s.llen := rfl
@[simp] theorem State.setAcc_arg (b : Byte) : (s.setAcc b).arg = s.arg := rfl
@[simp] theorem State.setAcc_res (b : Byte) : (s.setAcc b).res = s.res := rfl
@[simp] theorem State.setAcc_acc (b : Byte) : (s.setAcc b).acc = b := rfl
@[simp] theorem State.setAcc_line (b : Byte) : (s.setAcc b).line = s.line := rfl
@[simp] theorem State.setAcc_catalog (b : Byte) : (s.setAcc b).catalog = s.catalog := rfl
@[simp] theorem State.setAcc_pending (b : Byte) : (s.setAcc b).pending = s.pending := rfl
@[simp] theorem State.setAcc_answers (b : Byte) : (s.setAcc b).answers = s.answers := rfl

/-! `State.storeEncoded` -/

@[simp] theorem State.storeEncoded_err (e : EncodedLine) : (s.storeEncoded e).err = s.err := rfl
@[simp] theorem State.storeEncoded_fcmd (e : EncodedLine) : (s.storeEncoded e).fcmd = s.fcmd := rfl
@[simp] theorem State.storeEncoded_freg (e : EncodedLine) : (s.storeEncoded e).freg = s.freg := rfl
@[simp] theorem State.storeEncoded_fpay (e : EncodedLine) : (s.storeEncoded e).fpay = s.fpay := rfl
@[simp] theorem State.storeEncoded_present (e : EncodedLine) : (s.storeEncoded e).present = s.present := rfl
@[simp] theorem State.storeEncoded_width (e : EncodedLine) : (s.storeEncoded e).width = BitVec.ofNat 3 e.width := rfl
@[simp] theorem State.storeEncoded_fcsum (e : EncodedLine) : (s.storeEncoded e).fcsum = e.checksum := rfl
@[simp] theorem State.storeEncoded_llen (e : EncodedLine) : (s.storeEncoded e).llen = BitVec.ofNat 32 e.text.length := rfl
@[simp] theorem State.storeEncoded_arg (e : EncodedLine) : (s.storeEncoded e).arg = s.arg := rfl
@[simp] theorem State.storeEncoded_res (e : EncodedLine) : (s.storeEncoded e).res = s.res := rfl
@[simp] theorem State.storeEncoded_acc (e : EncodedLine) : (s.storeEncoded e).acc = s.acc := rfl
@[simp] theorem State.storeEncoded_line (e : EncodedLine) : (s.storeEncoded e).line = padLine e.text := rfl
@[simp] theorem State.storeEncoded_catalog (e : EncodedLine) : (s.storeEncoded e).catalog = s.catalog := rfl
@[simp] theorem State.storeEncoded_pending (e : EncodedLine) : (s.storeEncoded e).pending = s.pending := rfl
@[simp] theorem State.storeEncoded_answers (e : EncodedLine) : (s.storeEncoded e).answers = s.answers := rfl

/-! `State.storeFrame` -/

@[simp] theorem State.storeFrame_err (f : Frame) : (s.storeFrame f).err = s.err := rfl
@[simp] theorem State.storeFrame_fcmd (f : Frame) : (s.storeFrame f).fcmd = f.command.setWidth 32 := rfl
@[simp] theorem State.storeFrame_freg (f : Frame) : (s.storeFrame f).freg = f.register.setWidth 32 := rfl
@[simp] theorem State.storeFrame_fpay (f : Frame) : (s.storeFrame f).fpay = f.payload := rfl
@[simp] theorem State.storeFrame_present (f : Frame) : (s.storeFrame f).present = f.present := rfl
@[simp] theorem State.storeFrame_width (f : Frame) : (s.storeFrame f).width = BitVec.ofNat 3 f.width := rfl
@[simp] theorem State.storeFrame_fcsum (f : Frame) : (s.storeFrame f).fcsum = f.checksum := rfl
@[simp] theorem State.storeFrame_llen (f : Frame) : (s.storeFrame f).llen = s.llen := rfl
@[simp] theorem State.storeFrame_arg (f : Frame) : (s.storeFrame f).arg = s.arg := rfl
@[simp] theorem State.storeFrame_res (f : Frame) : (s.storeFrame f).res = s.res := rfl
@[simp] theorem State.storeFrame_acc (f : Frame) : (s.storeFrame f).acc = s.acc := rfl
@[simp] theorem State.storeFrame_line (f : Frame) : (s.storeFrame f).line = s.line := rfl
@[simp] theorem State.storeFrame_catalog (f : Frame) : (s.storeFrame f).catalog = s.catalog := rfl
@[simp] theorem State.storeFrame_pending (f : Frame) : (s.storeFrame f).pending = s.pending := rfl
@[simp] theorem State.storeFrame_answers (f : Frame) : (s.storeFrame f).answers = s.answers := rfl

/-! `State.setPending` -/

@[simp] theorem State.setPending_err (l : List HostEvent) : (s.setPending l).err = s.err := rfl
@[simp] theorem State.setPending_fcmd (l : List HostEvent) : (s.setPending l).fcmd = s.fcmd := rfl
@[simp] theorem State.setPending_freg (l : List HostEvent) : (s.setPending l).freg = s.freg := rfl
@[simp] theorem State.setPending_fpay (l : List HostEvent) : (s.setPending l).fpay = s.fpay := rfl
@[simp] theorem State.setPending_present (l : List HostEvent) : (s.setPending l).present = s.present := rfl
@[simp] theorem State.setPending_width (l : List HostEvent) : (s.setPending l).width = s.width := rfl
@[simp] theorem State.setPending_fcsum (l : List HostEvent) : (s.setPending l).fcsum = s.fcsum := rfl
@[simp] theorem State.setPending_llen (l : List HostEvent) : (s.setPending l).llen = s.llen := rfl
@[simp] theorem State.setPending_arg (l : List HostEvent) : (s.setPending l).arg = s.arg := rfl
@[simp] theorem State.setPending_res (l : List HostEvent) : (s.setPending l).res = s.res := rfl
@[simp] theorem State.setPending_acc (l : List HostEvent) : (s.setPending l).acc = s.acc := rfl
@[simp] theorem State.setPending_line (l : List HostEvent) : (s.setPending l).line = s.line := rfl
@[simp] theorem State.setPending_catalog (l : List HostEvent) : (s.setPending l).catalog = s.catalog := rfl
@[simp] theorem State.setPending_pending (l : List HostEvent) : (s.setPending l).pending = l := rfl
@[simp] theorem State.setPending_answers (l : List HostEvent) : (s.setPending l).answers = s.answers := rfl

/-! `State.answer` -/

@[simp] theorem State.answer_err (v : Word) : (s.answer v).err = s.err := rfl
@[simp] theorem State.answer_fcmd (v : Word) : (s.answer v).fcmd = s.fcmd := rfl
@[simp] theorem State.answer_freg (v : Word) : (s.answer v).freg = s.freg := rfl
@[simp] theorem State.answer_fpay (v : Word) : (s.answer v).fpay = s.fpay := rfl
@[simp] theorem State.answer_present (v : Word) : (s.answer v).present = s.present := rfl
@[simp] theorem State.answer_width (v : Word) : (s.answer v).width = s.width := rfl
@[simp] theorem State.answer_fcsum (v : Word) : (s.answer v).fcsum = s.fcsum := rfl
@[simp] theorem State.answer_llen (v : Word) : (s.answer v).llen = s.llen := rfl
@[simp] theorem State.answer_arg (v : Word) : (s.answer v).arg = s.arg := rfl
@[simp] theorem State.answer_res (v : Word) : (s.answer v).res = s.res := rfl
@[simp] theorem State.answer_acc (v : Word) : (s.answer v).acc = s.acc := rfl
@[simp] theorem State.answer_line (v : Word) : (s.answer v).line = s.line := rfl
@[simp] theorem State.answer_catalog (v : Word) : (s.answer v).catalog = s.catalog := rfl
@[simp] theorem State.answer_pending (v : Word) : (s.answer v).pending = s.pending := rfl
@[simp] theorem State.answer_answers (v : Word) : (s.answer v).answers = s.answers ++ [v] := rfl

/-! `State.resetEngine` -/

@[simp] theorem State.resetEngine_err : s.resetEngine.err = State.reset.err := rfl
@[simp] theorem State.resetEngine_fcmd : s.resetEngine.fcmd = State.reset.fcmd := rfl
@[simp] theorem State.resetEngine_freg : s.resetEngine.freg = State.reset.freg := rfl
@[simp] theorem State.resetEngine_fpay : s.resetEngine.fpay = State.reset.fpay := rfl
@[simp] theorem State.resetEngine_present : s.resetEngine.present = State.reset.present := rfl
@[simp] theorem State.resetEngine_width : s.resetEngine.width = State.reset.width := rfl
@[simp] theorem State.resetEngine_fcsum : s.resetEngine.fcsum = State.reset.fcsum := rfl
@[simp] theorem State.resetEngine_llen : s.resetEngine.llen = State.reset.llen := rfl
@[simp] theorem State.resetEngine_arg : s.resetEngine.arg = State.reset.arg := rfl
@[simp] theorem State.resetEngine_res : s.resetEngine.res = State.reset.res := rfl
@[simp] theorem State.resetEngine_acc : s.resetEngine.acc = State.reset.acc := rfl
@[simp] theorem State.resetEngine_line : s.resetEngine.line = State.reset.line := rfl
@[simp] theorem State.resetEngine_catalog : s.resetEngine.catalog = s.catalog := rfl
@[simp] theorem State.resetEngine_pending : s.resetEngine.pending = s.pending := rfl
@[simp] theorem State.resetEngine_answers : s.resetEngine.answers = s.answers := rfl

/-! `State.reset` -/

@[simp] theorem State.reset_err : State.reset.err = 0 := rfl
@[simp] theorem State.reset_fcmd : State.reset.fcmd = 0 := rfl
@[simp] theorem State.reset_freg : State.reset.freg = 0 := rfl
@[simp] theorem State.reset_fpay : State.reset.fpay = 0 := rfl
@[simp] theorem State.reset_present : State.reset.present = 0 := rfl
@[simp] theorem State.reset_width : State.reset.width = 0 := rfl
@[simp] theorem State.reset_fcsum : State.reset.fcsum = 0 := rfl
@[simp] theorem State.reset_llen : State.reset.llen = 0 := rfl
@[simp] theorem State.reset_arg : State.reset.arg = 0 := rfl
@[simp] theorem State.reset_res : State.reset.res = 0 := rfl
@[simp] theorem State.reset_acc : State.reset.acc = 0x55 := rfl
@[simp] theorem State.reset_line : State.reset.line = Vector.replicate Config.lineCap 0 := rfl
@[simp] theorem State.reset_catalog : State.reset.catalog = Config.catalog := rfl
@[simp] theorem State.reset_pending : State.reset.pending = [] := rfl
@[simp] theorem State.reset_answers : State.reset.answers = [] := rfl

/-! `State.configured` -/

@[simp] theorem State.configured_err (cat : List CatalogEntry) : (State.configured cat).err = State.reset.err := rfl
@[simp] theorem State.configured_fcmd (cat : List CatalogEntry) : (State.configured cat).fcmd = State.reset.fcmd := rfl
@[simp] theorem State.configured_freg (cat : List CatalogEntry) : (State.configured cat).freg = State.reset.freg := rfl
@[simp] theorem State.configured_fpay (cat : List CatalogEntry) : (State.configured cat).fpay = State.reset.fpay := rfl
@[simp] theorem State.configured_present (cat : List CatalogEntry) : (State.configured cat).present = State.reset.present := rfl
@[simp] theorem State.configured_width (cat : List CatalogEntry) : (State.configured cat).width = State.reset.width := rfl
@[simp] theorem State.configured_fcsum (cat : List CatalogEntry) : (State.configured cat).fcsum = State.reset.fcsum := rfl
@[simp] theorem State.configured_llen (cat : List CatalogEntry) : (State.configured cat).llen = State.reset.llen := rfl
@[simp] theorem State.configured_arg (cat : List CatalogEntry) : (State.configured cat).arg = State.reset.arg := rfl
@[simp] theorem State.configured_res (cat : List CatalogEntry) : (State.configured cat).res = State.reset.res := rfl
@[simp] theorem State.configured_acc (cat : List CatalogEntry) : (State.configured cat).acc = State.reset.acc := rfl
@[simp] theorem State.configured_line (cat : List CatalogEntry) : (State.configured cat).line = State.reset.line := rfl
@[simp] theorem State.configured_catalog (cat : List CatalogEntry) : (State.configured cat).catalog = cat := rfl
@[simp] theorem State.configured_pending (cat : List CatalogEntry) : (State.configured cat).pending = State.reset.pending := rfl
@[simp] theorem State.configured_answers (cat : List CatalogEntry) : (State.configured cat).answers = State.reset.answers := rfl

/-! `State.writeReg`, by the register written -/

@[simp] theorem State.writeReg_fcmd (v : Word) : s.writeReg v .fcmd = { s with fcmd := v } := rfl
@[simp] theorem State.writeReg_freg (v : Word) : s.writeReg v .freg = { s with freg := v } := rfl
@[simp] theorem State.writeReg_fpay (v : Word) : s.writeReg v .fpay = { s with fpay := v } := rfl
@[simp] theorem State.writeReg_fpctl (v : Word) : s.writeReg v .fpctl = { s with present := v.extractLsb' 0 1 } := rfl
@[simp] theorem State.writeReg_llen (v : Word) : s.writeReg v .llen = { s with llen := v } := rfl
@[simp] theorem State.writeReg_arg (v : Word) : s.writeReg v .arg = { s with arg := v } := rfl
@[simp] theorem State.writeReg_line (v : Word) (i : Fin Config.lineCap) :
    s.writeReg v (.line i) = { s with line := s.line.set i (v.extractLsb' 0 8) } := rfl
@[simp] theorem State.writeReg_opr (v : Word) : s.writeReg v .opr = s := rfl
@[simp] theorem State.writeReg_status (v : Word) : s.writeReg v .status = s := rfl
@[simp] theorem State.writeReg_fcsum (v : Word) : s.writeReg v .fcsum = s := rfl
@[simp] theorem State.writeReg_res (v : Word) : s.writeReg v .res = s := rfl
@[simp] theorem State.writeReg_acc (v : Word) : s.writeReg v .acc = s := rfl

/-! `State.writeReg` never changes what no host write reaches -/

@[simp] theorem State.writeReg_keeps_err (v : Word) (r : HostReg) : (s.writeReg v r).err = s.err := by
  cases r <;> rfl
@[simp] theorem State.writeReg_keeps_width (v : Word) (r : HostReg) : (s.writeReg v r).width = s.width := by
  cases r <;> rfl
@[simp] theorem State.writeReg_keeps_fcsum (v : Word) (r : HostReg) : (s.writeReg v r).fcsum = s.fcsum := by
  cases r <;> rfl
@[simp] theorem State.writeReg_keeps_res (v : Word) (r : HostReg) : (s.writeReg v r).res = s.res := by
  cases r <;> rfl
@[simp] theorem State.writeReg_keeps_acc (v : Word) (r : HostReg) : (s.writeReg v r).acc = s.acc := by
  cases r <;> rfl
@[simp] theorem State.writeReg_keeps_catalog (v : Word) (r : HostReg) : (s.writeReg v r).catalog = s.catalog := by
  cases r <;> rfl
@[simp] theorem State.writeReg_keeps_pending (v : Word) (r : HostReg) : (s.writeReg v r).pending = s.pending := by
  cases r <;> rfl
@[simp] theorem State.writeReg_keeps_answers (v : Word) (r : HostReg) : (s.writeReg v r).answers = s.answers := by
  cases r <;> rfl

/-! `State.readReg`, by the register read -/

@[simp] theorem State.readReg_opr : s.readReg .opr = 0 := rfl
@[simp] theorem State.readReg_status : s.readReg .status = s.err.setWidth 32 := rfl
@[simp] theorem State.readReg_fcmd : s.readReg .fcmd = s.fcmd := rfl
@[simp] theorem State.readReg_freg : s.readReg .freg = s.freg := rfl
@[simp] theorem State.readReg_fpay : s.readReg .fpay = s.fpay := rfl
@[simp] theorem State.readReg_fpctl : s.readReg .fpctl = s.present.setWidth 32 ||| (s.width.setWidth 32 <<< 4) := rfl
@[simp] theorem State.readReg_fcsum : s.readReg .fcsum = s.fcsum.setWidth 32 := rfl
@[simp] theorem State.readReg_llen : s.readReg .llen = s.llen := rfl
@[simp] theorem State.readReg_arg : s.readReg .arg = s.arg := rfl
@[simp] theorem State.readReg_res : s.readReg .res = s.res := rfl
@[simp] theorem State.readReg_acc : s.readReg .acc = s.acc.setWidth 32 := rfl
@[simp] theorem State.readReg_line (i : Fin Config.lineCap) : s.readReg (.line i) = s.line[i].setWidth 32 := rfl

end Sys2Proof.Machine
end

