-- ==== Sys2Proof/Laws/Ops.lean ====
section
/-! SUPPORT. For each shared operation, once, everything it can do. Callers cite these and never unfold it. -/

namespace Sys2Proof.Machine

/-! ### Ending an operation -/

theorem commit_eq_next {f : State → State} {s t : State} : commit f s = .next t ↔ t = (f s).setErr .ok := by
  simp [commit, eq_comm]

theorem raise_eq_next {e : ErrCode} {s t : State} : raise e s = .next t ↔ t = s.setErr e := by
  simp [raise, eq_comm]

@[simp] theorem ErrCode.bits_ok : ErrCode.ok.bits = 0 := rfl
@[simp] theorem ErrCode.bits_formatError : ErrCode.formatError.bits = 1 := rfl
@[simp] theorem ErrCode.bits_checksumError : ErrCode.checksumError.bits = 2 := rfl
@[simp] theorem ErrCode.bits_illegalOp : ErrCode.illegalOp.bits = 3 := rfl

/-! ### Operand forms -/

theorem extract_high_eq_zero_iff (v : Word) (k n : Nat) (h : k + n = 32) :
    v.extractLsb' k n = 0 ↔ v.toNat < 2 ^ k := by
  rw [← BitVec.toNat_inj]
  have hv : v.toNat / 2 ^ k < 2 ^ n := by
    rw [Nat.div_lt_iff_lt_mul (by positivity), ← pow_add, Nat.add_comm n k, h]
    exact v.isLt
  simp only [BitVec.extractLsb'_toNat, Nat.shiftRight_eq_div_pow, Nat.mod_eq_of_lt hv, BitVec.ofNat_eq_ofNat,
    BitVec.toNat_ofNat, Nat.zero_mod]
  exact Nat.div_eq_zero_iff_lt (by positivity)

theorem byteOperand_cases (v : Word) :
    (v.toNat ≤ 0xFF ∧ byteOperand v = some (v.extractLsb' 0 8)) ∨ (0xFF < v.toNat ∧ byteOperand v = none) := by
  have h := extract_high_eq_zero_iff v 8 24 rfl
  unfold byteOperand
  by_cases hv : v.toNat < 2 ^ 8
  · exact .inl ⟨by omega, if_pos (h.mpr hv)⟩
  · exact .inr ⟨by omega, if_neg (fun e => hv (h.mp e))⟩

theorem halfOperand_cases (v : Word) :
    (v.toNat ≤ 0xFFFF ∧ halfOperand v = some (v.extractLsb' 0 16)) ∨ (0xFFFF < v.toNat ∧ halfOperand v = none) := by
  have h := extract_high_eq_zero_iff v 16 16 rfl
  unfold halfOperand
  by_cases hv : v.toNat < 2 ^ 16
  · exact .inl ⟨by omega, if_pos (h.mpr hv)⟩
  · exact .inr ⟨by omega, if_neg (fun e => hv (h.mp e))⟩

theorem payloadOperand_cases (s : State) :
    (s.present = 0 ∧ payloadOperand s = none) ∨ (s.present = 1 ∧ payloadOperand s = some s.fpay) := by
  have h : ∀ b : BitVec 1, b = 0 ∨ b = 1 := by decide
  rcases h s.present with h | h <;> simp [payloadOperand, h]

/-! ### The register map -/

/-- What an index can name, with the index it then is. -/
theorem regAt_cases (idx : Index) :
    (∃ r, regAt idx = some r ∧ r.index = idx) ∨
      (regAt idx = none ∧ ((0x0B ≤ idx.toNat ∧ idx.toNat ≤ 0x0F) ∨ 0x21 ≤ idx.toNat)) := by
  have h : ∀ i : Fin 64, (∃ r, regAt (BitVec.ofFin i) = some r ∧ r.index = BitVec.ofFin i) ∨
      (regAt (BitVec.ofFin i) = none ∧ ((0x0B ≤ i.val ∧ i.val ≤ 0x0F) ∨ 0x21 ≤ i.val)) := by
    intro i
    cases hr : regAt (BitVec.ofFin i) with
    | some r => exact .inl ⟨r, rfl, by revert hr; revert r; revert i; decide +kernel⟩
    | none => exact .inr ⟨rfl, by revert hr; revert i; decide +kernel⟩
  exact h idx.toFin

/-- The index of a named register names it. -/
@[simp] theorem regAt_index (r : HostReg) : regAt r.index = some r := by
  cases r with
  | line i => revert i; decide +kernel
  | _ => rfl

/-! ### Decoding an operation word -/

/-- A word decodes to an operation, whose word it is, or to ILLEGAL, and then it is 9 or more. -/
theorem decode_cases (v : Word) :
    (∃ i, decode v = .op i ∧ encode i = v) ∨ (decode v = .illegal v ∧ 9 ≤ v.toNat) := by
  by_cases h : v.toNat < 9
  · have hv : v = BitVec.ofNat 32 v.toNat := by simp
    left
    rw [hv]
    generalize v.toNat = n at h
    interval_cases n
    exacts [⟨.nop, rfl, rfl⟩, ⟨.encode, rfl, rfl⟩, ⟨.decode, rfl, rfl⟩, ⟨.conv, rfl, rfl⟩, ⟨.swap16, rfl, rfl⟩,
      ⟨.csinit, rfl, rfl⟩, ⟨.csbyte, rfl, rfl⟩, ⟨.csverify, rfl, rfl⟩, ⟨.nameof, rfl, rfl⟩]
  · right
    refine ⟨?_, by omega⟩
    have hn : opcodeTable.find? (fun row => row.1 == v) = none := by
      rw [List.find?_eq_none]
      intro row hrow hv
      have : row.1.toNat < 9 := (show ∀ r ∈ opcodeTable, r.1.toNat < 9 by decide) row hrow
      exact h (by rw [← eq_of_beq hv]; exact this)
    simp [decode, hn]

end Sys2Proof.Machine
end

