-- ==== Sys2Proof/Laws/Codec.lean ====
section
/-! SUPPORT. The small lemmas of the byte, digit, conversion and checksum functions. -/

namespace Sys2Proof.Machine

/-! ### Bytes of a word -/

@[simp] theorem beBytes_zero (v : Word) : beBytes v 0 = [] := rfl
@[simp] theorem beBytes_succ (v : Word) (k : Nat) : beBytes v (k + 1) = byteOf v k :: beBytes v k := rfl

@[simp] theorem beBytes_length (v : Word) (k : Nat) : (beBytes v k).length = k := by
  induction k with
  | zero => rfl
  | succ k ih => simp [ih]

@[simp] theorem beValue_nil : beValue [] = 0 := rfl
@[simp] theorem beValue_cons (b : Byte) (bs : List Byte) :
    beValue (b :: bs) = b.toNat * 2 ^ (8 * bs.length) + beValue bs := rfl

/-- A sequence of k bytes spells a number below 256^k. -/
theorem beValue_lt (bs : List Byte) : beValue bs < 2 ^ (8 * bs.length) := by
  induction bs with
  | nil => simp
  | cons b bs ih =>
    have hb : b.toNat + 1 ≤ 256 := b.isLt
    have : (b.toNat + 1) * 2 ^ (8 * bs.length) ≤ 2 ^ 8 * 2 ^ (8 * bs.length) := Nat.mul_le_mul_right _ hb
    rw [beValue_cons, List.length_cons, Nat.mul_succ, Nat.add_comm (8 * bs.length) 8, pow_add]
    rw [Nat.add_mul, one_mul] at this
    omega

theorem byteOf_toNat (v : Word) (i : Nat) : (byteOf v i).toNat = v.toNat / 2 ^ (8 * i) % 256 := by
  simp [byteOf, Nat.shiftRight_eq_div_pow]

/-- The four cases of `nbytes`, with the magnitude each stands for. -/
theorem nbytes_cases (v : Word) :
    (nbytes v = 1 ∧ v.toNat < 2 ^ 8) ∨ (nbytes v = 2 ∧ 2 ^ 8 ≤ v.toNat ∧ v.toNat < 2 ^ 16) ∨
      (nbytes v = 3 ∧ 2 ^ 16 ≤ v.toNat ∧ v.toNat < 2 ^ 24) ∨ (nbytes v = 4 ∧ 2 ^ 24 ≤ v.toNat) := by
  unfold nbytes
  split
  · exact .inl ⟨rfl, by omega⟩
  · split
    · exact .inr (.inl ⟨rfl, by omega, by omega⟩)
    · split
      · exact .inr (.inr (.inl ⟨rfl, by omega, by omega⟩))
      · exact .inr (.inr (.inr ⟨rfl, by omega⟩))

@[simp] theorem leBytes_length (v : Word) (n : Nat) : (leBytes v n).length = n := by simp [leBytes]

/-- `rev_min` as a number, never truncated. -/
theorem revMin_toNat (v : Word) : (revMin v).toNat = beValue (leBytes v (nbytes v)) := by
  have h := beValue_lt (leBytes v (nbytes v))
  have hn : nbytes v ≤ 4 := by rcases nbytes_cases v with h | h | h | h <;> omega
  have : 2 ^ (8 * (leBytes v (nbytes v)).length) ≤ 2 ^ 32 := Nat.pow_le_pow_right (by omega) (by simp; omega)
  rw [revMin, BitVec.toNat_ofNat, Nat.mod_eq_of_lt (by omega)]

/-! ### Hex digits -/

@[simp] theorem hexN_zero (v : Word) : hexN v 0 = [] := rfl
@[simp] theorem hexN_succ (v : Word) (n : Nat) :
    hexN v (n + 1) = hexchar (v.extractLsb' (4 * n) 4) :: hexN v n := rfl

@[simp] theorem hexN_length (v : Word) (n : Nat) : (hexN v n).length = n := by
  induction n with
  | zero => rfl
  | succ n ih => simp [ih]

@[simp] theorem hexval_hexchar (n : Nibble) : hexval (hexchar n) = some n := by revert n; decide +kernel

/-- Only the sixteen uppercase digits have a value. -/
theorem hexval_eq_some {c : Byte} {n : Nibble} (h : hexval c = some n) : c = hexchar n := by
  revert h; revert n; revert c; decide +kernel

/-! ### The checksum -/

@[simp] theorem checksum_nil : checksum [] = 0x55 := rfl

theorem checksum_append_singleton (bs : List Byte) (b : Byte) : checksum (bs ++ [b]) = checksum bs - b := by
  simp [checksum, checksumStep]

theorem foldl_checksumStep (bs : List Byte) (a : Byte) : bs.foldl checksumStep a = a - bs.sum := by
  induction bs generalizing a with
  | nil => simp
  | cons b bs ih => simp [ih, checksumStep, sub_sub]

/-- The checksum as the seed less the sum of the bytes, in 8 bits. -/
theorem checksum_eq_sub_sum (bs : List Byte) : checksum bs = 0x55 - bs.sum := foldl_checksumStep bs 0x55

/-! ### The encoder -/

/-- What the payload field can be: none, or the converted value in 1, 2 or 4 bytes that hold it. -/
theorem payloadField_cases (p : Option Word) :
    (p = none ∧ payloadField p = (0, 0)) ∨
      ∃ x, p = some x ∧ (payloadField p).1 = revMin x ∧
        (((payloadField p).2 = 1 ∧ (revMin x).toNat < 2 ^ 8) ∨
          ((payloadField p).2 = 2 ∧ 2 ^ 8 ≤ (revMin x).toNat ∧ (revMin x).toNat < 2 ^ 16) ∨
          ((payloadField p).2 = 4 ∧ 2 ^ 16 ≤ (revMin x).toNat)) := by
  cases p with
  | none => exact .inl ⟨rfl, rfl⟩
  | some x =>
    refine .inr ⟨x, rfl, rfl, ?_⟩
    simp only [payloadField, payloadWidth]
    split
    · exact .inl ⟨rfl, by omega⟩
    · split
      · exact .inr (.inl ⟨rfl, by omega, by omega⟩)
      · exact .inr (.inr ⟨rfl, by omega⟩)

theorem encodeFn_width (c : Byte) (r : Half) (p : Option Word) : (encodeFn c r p).width = (payloadField p).2 := rfl

/-- The length of the encoded line is 9 + 2k. -/
theorem encodeFn_text_length (c : Byte) (r : Half) (p : Option Word) :
    (encodeFn c r p).text.length = 9 + 2 * (encodeFn c r p).width := by
  simp [encodeFn]; omega

/-- The encoder's width is 0, 1, 2 or 4. -/
theorem encodeFn_width_cases (c : Byte) (r : Half) (p : Option Word) :
    (encodeFn c r p).width = 0 ∨ (encodeFn c r p).width = 1 ∨ (encodeFn c r p).width = 2 ∨
      (encodeFn c r p).width = 4 := by
  rw [encodeFn_width]
  rcases payloadField_cases p with ⟨-, h⟩ | ⟨x, -, -, h⟩
  · simp [h]
  · omega

/-! ### The decoder -/

/-- Everything decode_fn can answer, and when. -/
theorem decodeFn_cases (len : Word) (line : Vector Byte Config.lineCap) :
    (decodeFn len line = .format ∧
      (len.toNat ∉ Config.validLlen ∨ charAt line 0 ≠ colon ∨
        ∃ i, 1 ≤ i ∧ i < len.toNat ∧ isHexDigit (charAt line i) = false)) ∨
    (len.toNat ∈ Config.validLlen ∧ charAt line 0 = colon ∧
      (∀ i, 1 ≤ i → i < len.toNat → isHexDigit (charAt line i) = true) ∧
      ((decodeFn len line = .checksum ∧
          checksum (wireBytes line 0 ((len.toNat - 1) / 2 - 1)) ≠
            (frameOf line ((len.toNat - 1) / 2 - 4)).checksum) ∨
        (decodeFn len line = .ok (frameOf line ((len.toNat - 1) / 2 - 4)) ∧
          checksum (wireBytes line 0 ((len.toNat - 1) / 2 - 1)) =
            (frameOf line ((len.toNat - 1) / 2 - 4)).checksum))) := by
  by_cases h1 : len.toNat ∈ Config.validLlen
  · by_cases h2 : charAt line 0 = colon
    · by_cases h3 : (List.range' 1 (len.toNat - 1)).all (fun i => isHexDigit (charAt line i)) = true
      · right
        refine ⟨h1, h2, fun i hi hlt => ?_, ?_⟩
        · rw [List.all_eq_true] at h3
          exact h3 i (by rw [List.mem_range'_1]; omega)
        · by_cases h4 : checksum (wireBytes line 0 ((len.toNat - 1) / 2 - 1)) =
              (frameOf line ((len.toNat - 1) / 2 - 4)).checksum
          · right; simp [decodeFn, h1, h2, h3, verify, h4]
          · left; simp [decodeFn, h1, h2, h3, verify, h4]
      · left
        refine ⟨by simp only [decodeFn, h1, h2, h3]; simp, .inr (.inr ?_)⟩
        rw [List.all_eq_true] at h3
        push Not at h3
        obtain ⟨i, hi, hd⟩ := h3
        rw [List.mem_range'_1] at hi
        exact ⟨i, by omega, by omega, by simpa using hd⟩
    · left; exact ⟨by simp [decodeFn, h1, h2], .inr (.inl h2)⟩
  · left; exact ⟨by simp [decodeFn, h1], .inl h1⟩

/-- A frame that decode_fn returns has width 0, 1, 2 or 4. -/
theorem decodeFn_ok_width {len : Word} {line : Vector Byte Config.lineCap} {f : Frame}
    (h : decodeFn len line = .ok f) : f.width = 0 ∨ f.width = 1 ∨ f.width = 2 ∨ f.width = 4 := by
  rcases decodeFn_cases len line with ⟨hf, -⟩ | ⟨hl, -, -, ⟨hc, -⟩ | ⟨hk, -⟩⟩
  · rw [hf] at h; cases h
  · rw [hc] at h; cases h
  · rw [hk] at h
    cases h
    simp only [Config.validLlen, List.mem_cons, List.not_mem_nil, or_false] at hl
    simp only [frameOf]
    omega

end Sys2Proof.Machine
end

