-- ==== Sys2Proof/Laws/Exec.lean ====
section
/-! SUPPORT. What each meaning can answer, once; what a host event and a step can answer. -/

namespace Sys2Proof.Machine

variable {s t : State}

theorem execNop_next (h : execNop s = .next t) : t = s := by
  simpa [execNop, eq_comm] using h

theorem execConv_next (h : execConv s = .next t) : t = (s.setRes (revMin s.arg)).setErr .ok :=
  commit_eq_next.mp h

theorem execCsinit_next (h : execCsinit s = .next t) : t = (s.setAcc 0x55).setErr .ok :=
  commit_eq_next.mp h

theorem execSwap16_next (h : execSwap16 s = .next t) :
    (s.arg.toNat ≤ 0xFFFF ∧ t = (s.setRes ((swap16 (s.arg.extractLsb' 0 16)).setWidth 32)).setErr .ok) ∨
      (0xFFFF < s.arg.toNat ∧ t = s.setErr .formatError) := by
  unfold execSwap16 at h
  rcases halfOperand_cases s.arg with ⟨hr, ho⟩ | ⟨hr, ho⟩ <;> rw [ho] at h
  · exact .inl ⟨hr, commit_eq_next.mp h⟩
  · exact .inr ⟨hr, raise_eq_next.mp h⟩

theorem execCsbyte_next (h : execCsbyte s = .next t) :
    (s.arg.toNat ≤ 0xFF ∧ t = (s.setAcc (s.acc - s.arg.extractLsb' 0 8)).setErr .ok) ∨
      (0xFF < s.arg.toNat ∧ t = s.setErr .formatError) := by
  unfold execCsbyte at h
  rcases byteOperand_cases s.arg with ⟨hr, ho⟩ | ⟨hr, ho⟩ <;> rw [ho] at h
  · exact .inl ⟨hr, commit_eq_next.mp h⟩
  · exact .inr ⟨hr, raise_eq_next.mp h⟩

theorem execCsverify_next (h : execCsverify s = .next t) :
    (s.arg.toNat ≤ 0xFF ∧
        t = (s.setRes (if s.acc = s.arg.extractLsb' 0 8 then 1 else 0)).setErr .ok) ∨
      (0xFF < s.arg.toNat ∧ t = s.setErr .formatError) := by
  unfold execCsverify at h
  rcases byteOperand_cases s.arg with ⟨hr, ho⟩ | ⟨hr, ho⟩ <;> rw [ho] at h
  · exact .inl ⟨hr, commit_eq_next.mp h⟩
  · exact .inr ⟨hr, raise_eq_next.mp h⟩

theorem nameofIn_next {cat : List CatalogEntry} (h : nameofIn cat s = .next t) :
    (s.arg.toNat ≤ 0xFFFF ∧
        t = (s.setRes (BitVec.ofNat 32 (nameIndex cat (s.arg.extractLsb' 0 16)))).setErr .ok) ∨
      (0xFFFF < s.arg.toNat ∧ t = s.setErr .formatError) := by
  unfold nameofIn at h
  rcases halfOperand_cases s.arg with ⟨hr, ho⟩ | ⟨hr, ho⟩ <;> rw [ho] at h
  · exact .inl ⟨hr, commit_eq_next.mp h⟩
  · exact .inr ⟨hr, raise_eq_next.mp h⟩

theorem execNameof_next (h : execNameof s = .next t) :
    (s.arg.toNat ≤ 0xFFFF ∧
        t = (s.setRes (BitVec.ofNat 32 (nameIndex s.catalog (s.arg.extractLsb' 0 16)))).setErr .ok) ∨
      (0xFFFF < s.arg.toNat ∧ t = s.setErr .formatError) :=
  nameofIn_next h

theorem execEncode_next (h : execEncode s = .next t) :
    (s.fcmd.toNat ≤ 0xFF ∧ s.freg.toNat ≤ 0xFFFF ∧
        t = (s.storeEncoded
          (encodeFn (s.fcmd.extractLsb' 0 8) (s.freg.extractLsb' 0 16) (payloadOperand s))).setErr .ok) ∨
      ((0xFF < s.fcmd.toNat ∨ 0xFFFF < s.freg.toNat) ∧ t = s.setErr .formatError) := by
  unfold execEncode at h
  rcases byteOperand_cases s.fcmd with ⟨hc, ho⟩ | ⟨hc, ho⟩ <;>
    rcases halfOperand_cases s.freg with ⟨hr, ho'⟩ | ⟨hr, ho'⟩ <;> rw [ho, ho'] at h
  · exact .inl ⟨hc, hr, commit_eq_next.mp h⟩
  · exact .inr ⟨.inr hr, raise_eq_next.mp h⟩
  · exact .inr ⟨.inl hc, raise_eq_next.mp h⟩
  · exact .inr ⟨.inl hc, raise_eq_next.mp h⟩

theorem execDecode_next (h : execDecode s = .next t) :
    (decodeFn s.llen s.line = .format ∧ t = s.setErr .formatError) ∨
      (decodeFn s.llen s.line = .checksum ∧ t = s.setErr .checksumError) ∨
      ∃ f, decodeFn s.llen s.line = .ok f ∧ t = (s.storeFrame f).setErr .ok := by
  unfold execDecode at h
  split at h
  · next hd => exact .inl ⟨hd, raise_eq_next.mp h⟩
  · next hd => exact .inr (.inl ⟨hd, raise_eq_next.mp h⟩)
  · next f hd => exact .inr (.inr ⟨f, hd, commit_eq_next.mp h⟩)

/-! ### The host's side -/

/-- What a write to OPR can answer. -/
theorem performOp_next {v : Word} (h : performOp v s = .next t) :
    (∃ i, decode v = .op i ∧ encode i = v ∧ exec i s = .next t) ∨
      (9 ≤ v.toNat ∧ t = s.setErr .illegalOp) := by
  unfold performOp at h
  rcases decode_cases v with ⟨i, hd, he⟩ | ⟨hd, hv⟩ <;> rw [hd] at h
  · exact .inl ⟨i, hd, he, h⟩
  · exact .inr ⟨hv, raise_eq_next.mp h⟩

/-- What a host write can answer: the operation that an OPR write performs, one register's storing, or nothing. -/
theorem hostWrite_next {idx : Index} {v : Word} (h : hostWrite idx v s = .next t) :
    (idx = 0 ∧ performOp v s = .next t) ∨
      (∃ r, r ≠ .opr ∧ r.index = idx ∧ t = s.writeReg v r) ∨ (regAt idx = none ∧ t = s) := by
  unfold hostWrite at h
  rcases regAt_cases idx with ⟨r, hr, hi⟩ | ⟨hr, -⟩
  · by_cases hop : r = .opr
    · subst hop
      rw [hr] at h
      exact .inl ⟨hi.symm, h⟩
    · refine .inr (.inl ⟨r, hop, hi, ?_⟩)
      rw [hr] at h
      cases r with
      | opr => exact absurd rfl hop
      | _ => exact (by simpa using h.symm)
  · rw [hr] at h
    exact .inr (.inr ⟨hr, by simpa using h.symm⟩)

/-- What a step can answer, by the event that the host issues. -/
theorem step_next (h : step s = .next t) :
    (s.pending = [] ∧ t = s) ∨
      (∃ idx rest, s.pending = .txn (.read idx) :: rest ∧
        t = (s.setPending rest).answer (hostRead (s.setPending rest) idx)) ∨
      (∃ idx v rest, s.pending = .txn (.write idx v) :: rest ∧ hostWrite idx v (s.setPending rest) = .next t) ∨
      ∃ rest, s.pending = .reset :: rest ∧ t = (s.setPending rest).resetEngine := by
  unfold step nextEvent at h
  split at h
  · next hp => exact .inl ⟨hp, by simpa using h.symm⟩
  · next e rest hp =>
    unfold hostEvent at h
    cases e with
    | txn x =>
      cases x with
      | read idx => exact .inr (.inl ⟨idx, rest, hp, by simpa using h.symm⟩)
      | write idx v => exact .inr (.inr (.inl ⟨idx, v, rest, hp, h⟩))
    | reset => exact .inr (.inr (.inr ⟨rest, hp, by simpa using h.symm⟩))

/-- A read does not depend on what the host does next. -/
@[simp] theorem hostRead_setPending (l : List HostEvent) (idx : Index) :
    hostRead (s.setPending l) idx = hostRead s idx := by
  unfold hostRead
  cases regAt idx with
  | none => rfl
  | some r => cases r <;> rfl

end Sys2Proof.Machine
end

