-- ==== Sys2Proof/Laws/PerInstr.lean ====
section
/-! SUPPORT. What is stated of every operation, one lemma per constructor of Instr. -/

namespace Sys2Proof.Laws.OpWord

/-- Each operation is well formed and its word, below 9, is the one the decoder reads it from (spec/30_encoding.md
R70, R71). -/
def Statement (i : Instr) : Prop :=
  i.wellFormed = true ∧ Sys2Proof.decode (Sys2Proof.encode i) = .op i ∧ (Sys2Proof.encode i).toNat < 9

theorem nop : Statement .nop := ⟨rfl, rfl, by decide⟩
theorem encode : Statement .encode := ⟨rfl, rfl, by decide⟩
theorem decode : Statement .decode := ⟨rfl, rfl, by decide⟩
theorem conv : Statement .conv := ⟨rfl, rfl, by decide⟩
theorem swap16 : Statement .swap16 := ⟨rfl, rfl, by decide⟩
theorem csinit : Statement .csinit := ⟨rfl, rfl, by decide⟩
theorem csbyte : Statement .csbyte := ⟨rfl, rfl, by decide⟩
theorem csverify : Statement .csverify := ⟨rfl, rfl, by decide⟩
theorem nameof : Statement .nameof := ⟨rfl, rfl, by decide⟩

end Sys2Proof.Laws.OpWord
end

