-- ==== Sys2Proof/Tests/Slice0.lean ====
section
/-! SUPPORT. Tests. Expected values come from the vectors of spec/95_test_vectors.md, named in each comment, or from the
rule cited; none is the model's own answer. After them, one theorem per statement with hypotheses, showing a state
that meets them. -/

namespace Sys2Proof.Tests

open Sys2Proof.Machine Sys2Proof.Safety

/-! ### Helpers -/

/-- The ASCII codes of a text. -/
def ascii (t : String) : List Byte := t.toList.map fun c => BitVec.ofNat 8 c.toNat

/-- The reset state with a line loaded. -/
def loaded (t : String) : State :=
  { State.reset with line := padLine (ascii t), llen := BitVec.ofNat 32 t.length }

/-- The reset state with the frame to encode: FCMD, FREG, PRESENT and FPAY. -/
def framed (c r : Word) (present : BitVec 1) (x : Word) : State :=
  { State.reset with fcmd := c, freg := r, present := present, fpay := x }

/-- The reset state with ARG, ACC and RES set. -/
def withArg (arg : Word) (acc : Byte) (res : Word) : State :=
  { State.reset with arg := arg, acc := acc, res := res }

/-- The state an outcome goes on to. -/
def after : Result → State
  | .next t => t
  | .fault f => nomatch f
  | .refused _ => State.reset

/-- The outcome is a next state of which p holds. -/
def nextWith (r : Result) (p : State → Bool) : Bool :=
  match r with
  | .next t => p t
  | _ => false

/-! ### Operation words: R71, bit by bit, and the illegal words of OP2, OP4 and OP7 -/

theorem test_word_nop : decode 0b00000000000000000000000000000000 = .op .nop := by decide
theorem test_word_encode : decode 0b00000000000000000000000000000001 = .op .encode := by decide
theorem test_word_decode : decode 0b00000000000000000000000000000010 = .op .decode := by decide
theorem test_word_conv : decode 0b00000000000000000000000000000011 = .op .conv := by decide
theorem test_word_swap16 : decode 0b00000000000000000000000000000100 = .op .swap16 := by decide
theorem test_word_csinit : decode 0b00000000000000000000000000000101 = .op .csinit := by decide
theorem test_word_csbyte : decode 0b00000000000000000000000000000110 = .op .csbyte := by decide
theorem test_word_csverify : decode 0b00000000000000000000000000000111 = .op .csverify := by decide
theorem test_word_nameof : decode 0b00000000000000000000000000001000 = .op .nameof := by decide
theorem test_word_nine_is_illegal : decode 0x00000009 = .illegal 0x00000009 := by decide
theorem test_word_is_not_masked : decode 0x80000001 = .illegal 0x80000001 := by decide
theorem test_table_word : decodeTableWord 32 8 = some .nameof ∧ decodeTableWord 32 0x100 = none := by decide

/-! ### Transaction words and host assembly: the worked examples of R86 and lines of P2 and P6 -/

theorem test_asm_op_encode :
    (assemble 0 (.op .encode)).map (List.map encodeTransaction) = some [0x4000000001] := by decide
theorem test_asm_wr_fcmd :
    (assemble 0 (.wr (.named .fcmd) 0x07)).map (List.map encodeTransaction) = some [0x4200000007] := by decide
theorem test_asm_wr_raw :
    (assemble 0 (.wr (.raw 0x3F) 5)).map (List.map encodeTransaction) = some [0x7F00000005] := by decide
theorem test_asm_rd_status :
    (assemble 0 (.rd (.named .status))).map (List.map encodeTransaction) = some [0x0100000000] := by decide
/-- R85's expansion, with P1's words. -/
theorem test_asm_wline :
    (assemble 0 (.wline (ascii ":07"))).map (List.map encodeTransaction) =
      some [0x500000003A, 0x5100000030, 0x5200000037, 0x4700000003] := by decide +kernel
/-- R85's expansion. -/
theorem test_asm_rline :
    assemble 2 .rline = some [.read 0x07, .read 0x10, .read 0x11] := by decide
theorem test_transaction_reserved_bit : decodeTransaction 0x8000000000 = none := by decide

/-! ### WellFormed, a smoke test for each check -/

theorem test_wf_wline_too_long : (AsmLine.wline (List.replicate 18 0x30)).wellFormed = false := by decide
theorem test_wf_wline_of_17 : (AsmLine.wline (List.replicate 17 0x30)).wellFormed = true := by decide
theorem test_wf_catalog_repeats : catalogWellFormed [⟨0x0200, "A"⟩, ⟨0x0200, "B"⟩] = false := by decide
theorem test_wf_wline_too_long_not_assembled : assemble 0 (.wline (List.replicate 18 0x30)) = none := by decide

/-! ### One step of each operation -/

/-- OP1. -/
theorem test_nop_keeps_err : nextWith (exec .nop { State.reset with err := 2 }) (fun t => t.err == 2) := by
  decide +kernel

/-- EN14: three significant bytes are sent in four. -/
theorem test_encode_en14 :
    nextWith (exec .encode (framed 0x08 0xEDD5 1 0x000186A0)) (fun t =>
      t.line.toList == ascii ":08D5ED00A0860164" && t.llen == 17 && t.fcsum == 0x64 && t.width == 4) := by
  decide +kernel

/-- EN8: payload 0 is present and encoded; the entries past the line are 0x00. -/
theorem test_encode_en8 :
    nextWith (exec .encode (framed 0x08 0x0200 1 0)) (fun t =>
      t.line.toList == ascii ":080002004B" ++ List.replicate 6 0 && t.llen == 11 && t.width == 1) := by
  decide +kernel

/-- X20. -/
theorem test_decode_x20 :
    nextWith (exec .decode (loaded ":08D5EDA086010064")) (fun t =>
      t.err == 0 && t.fcmd == 0x08 && t.freg == 0xEDD5 && t.fpay == 0x000186A0 && t.width == 4 && t.fcsum == 0x64) := by
  decide +kernel

/-- X24: a malformed line with a wrong checksum is a FormatError; X2: a wrong checksum alone is a ChecksumError. -/
theorem test_decode_errors :
    nextWith (exec .decode (loaded ":07d5ED8D")) (fun t => t.err == 1) ∧
      nextWith (exec .decode (loaded ":07D5ED8D")) (fun t => t.err == 2 && t.fcsum == 0) := by
  decide +kernel

/-- CV6. -/
theorem test_conv_cv6 : nextWith (exec .conv (withArg 0x000186A0 0 0)) (fun t => t.res == 0x00A08601) := by
  decide +kernel

/-- CV4: trailing zero bytes are dropped. -/
theorem test_conv_cv4 : nextWith (exec .conv (withArg 0x00000100 0 0)) (fun t => t.res == 0x00000001) := by
  decide +kernel

/-- SW3. -/
theorem test_swap16_sw3 : nextWith (exec .swap16 (withArg 0x0007 0 0)) (fun t => t.res == 0x0700 && t.err == 0) := by
  decide +kernel

/-- SW9: RES keeps 0xAAAA. -/
theorem test_swap16_sw9 :
    nextWith (exec .swap16 (withArg 0x00010000 0 0xAAAA)) (fun t => t.res == 0xAAAA && t.err == 1) := by
  decide +kernel

/-- CK11. -/
theorem test_csinit_ck11 : nextWith (exec .csinit (withArg 0 0x8C 0)) (fun t => t.acc == 0x55 && t.res == 0) := by
  decide +kernel

/-- CK15: the subtraction wraps. -/
theorem test_csbyte_ck15 : nextWith (exec .csbyte (withArg 1 0x00 0)) (fun t => t.acc == 0xFF && t.err == 0) := by
  decide +kernel

/-- CK18: out of range. -/
theorem test_csbyte_ck18 : nextWith (exec .csbyte (withArg 0x100 0x55 0)) (fun t => t.acc == 0x55 && t.err == 1) := by
  decide +kernel

/-- CK20: a mismatch is RES = 0 and no error. -/
theorem test_csverify_ck20 :
    nextWith (exec .csverify (withArg 0x8D 0x8C 7)) (fun t => t.res == 0 && t.err == 0 && t.acc == 0x8C) := by
  decide +kernel

/-- CK22: out of range, though the low byte matches. -/
theorem test_csverify_ck22 : nextWith (exec .csverify (withArg 0x18C 0x8C 7)) (fun t => t.res == 7 && t.err == 1) := by
  decide +kernel

/-- NM4, the name R190 gives entry 4, and R191's position in another catalog. -/
theorem test_nameof_nm4 :
    nextWith (exec .nameof (withArg 0xEDD5 0 0)) (fun t => t.res == 4) ∧
      nameAt Config.catalog 4 = "ChargerVoltageRegister" ∧
      nextWith (exec .nameof { State.configured [⟨0x0001, "A"⟩, ⟨0xEDD5, "B"⟩] with arg := 0xEDD5 })
        (fun t => t.res == 2) := by
  decide +kernel

/-- NM7 and NM12: an unknown address is 0; an address out of range is an error. -/
theorem test_nameof_nm7_nm12 :
    nextWith (exec .nameof (withArg 0x9999 0 3)) (fun t => t.res == 0) ∧
      nextWith (exec .nameof (withArg 0x00010200 0 0)) (fun t => t.res == 0 && t.err == 1) := by
  decide +kernel

/-! ### Host accesses: HI3, HI5, HI6 and HI7; the first operation after reset -/

theorem test_write_acc_is_ignored : nextWith (hostWrite 0x0A 0x12 State.reset) (fun t => hostRead t 0x0A == 0x55) := by
  decide +kernel
theorem test_write_fpctl : nextWith (hostWrite 0x05 0x31 State.reset) (fun t => hostRead t 0x05 == 0x01) := by
  decide +kernel
theorem test_write_line : nextWith (hostWrite 0x10 0x13A State.reset) (fun t => hostRead t 0x10 == 0x3A) := by
  decide +kernel
theorem test_write_reserved : nextWith (hostWrite 0x3F 5 State.reset) (fun t => hostRead t 0x3F == 0) := by
  decide +kernel
/-- R254: any operation may be the first transaction after reset. -/
theorem test_first_step_runs_the_word :
    nextWith (step (State.reset.withFetchWord 32 0x00000009)) (fun t => t.err == 3 && t.pending == []) := by
  decide +kernel

/-! ### Witnesses: for every statement with hypotheses, operands and a state that meet them all -/

theorem witness_DecodeReadsExactlyTheEncodedWord : Instr.nameof.wellFormed = true := rfl

theorem witness_OtherOpcodesRaiseIllegalOp :
    0x00000009 ≤ (0x00000009 : Word).toNat ∧ 0x00000009 ≤ (0xFFFFFFFF : Word).toNat := by decide

theorem witness_TransactionWordsRoundTrip :
    decodeTransaction 0x4200000007 = some (.write 0x02 0x07) ∧ decodeTransaction 0x3F00000000 = some (.read 0x3F) := by
  decide

theorem witness_WlineLoadsTheLine :
    assemble 0 (.wline [0x3A]) = some [.write 0x10 0x3A, .write 0x07 1] ∧
      (State.reset.setPending [.txn (.write 0x10 0x3A), .txn (.write 0x07 1), .reset]).pending =
        [Transaction.write 0x10 0x3A, .write 0x07 1].map HostEvent.txn ++ [.reset] := by
  decide

theorem witness_StepRunsTheDecodedOperation :
    (State.reset.withFetchWord 32 3).pending = [.txn (.write 0x00 0x00000003)] ∧ decode 0x00000003 = .op .conv ∧
      Instr.conv.wellFormed = true := by
  decide

theorem witness_StepTakesTheOldestEvent :
    (State.reset.setPending [.reset]).pending = [HostEvent.reset] ∧ State.reset.pending = [] := by decide

theorem witness_ReservedIndicesAreInert :
    (0x0B ≤ (0x0B : Index).toNat ∧ (0x0F : Index).toNat ≤ 0x0F) ∧
      (0x21 ≤ (0x21 : Index).toNat ∧ (0x3F : Index).toNat ≤ 0x3F) := by
  decide

/-- The clauses of the statement at the ends of their ranges: an RW register, FPCTL, both ends of LINE, a read-only one. -/
theorem witness_ReadAfterWrite :
    ∀ idx ∈ [(0x02 : Index), 0x05, 0x08, 0x10, 0x20, 0x0A, 0x3F],
      idx ≠ 0x00 ∧ hostWrite idx 0xFFFFFFFF State.reset = .next (after (hostWrite idx 0xFFFFFFFF State.reset)) := by
  intro idx h
  simp only [List.mem_cons, List.not_mem_nil, or_false] at h
  rcases h with rfl | rfl | rfl | rfl | rfl | rfl | rfl <;> exact ⟨by decide, rfl⟩

theorem witness_NoIndexIsAnAlias :
    (0x10 : Index) ≠ 0x00 ∧ (0x11 : Index) ≠ 0x10 ∧
      hostWrite 0x10 0x41 State.reset = .next (after (hostWrite 0x10 0x41 State.reset)) := ⟨by decide, by decide, rfl⟩

theorem witness_WriteIsIdempotent :
    (0x05 : Index) ≠ 0x00 ∧ hostWrite 0x05 0x31 State.reset = .next (after (hostWrite 0x05 0x31 State.reset)) :=
  ⟨by decide, rfl⟩

/-- For each clause an event, other than a reset, that changes its register: an OPR write for ERR, RES, ACC, WIDTH and
FCSUM, a write to the register for the others. -/
theorem witness_EveryChangeHasItsCause :
    let s := { framed 0x08 0x0200 1 0x0100 with err := 1, arg := 0x0102, acc := 0x8C }
    nextWith (hostEvent (.txn (.write 0x00 0x00000003)) s) (fun t => t.err != s.err && t.res != s.res) ∧
      nextWith (hostEvent (.txn (.write 0x00 0x00000005)) s) (fun t => t.acc != s.acc) ∧
      nextWith (hostEvent (.txn (.write 0x00 0x00000001)) s)
        (fun t => t.width != s.width && t.fcsum != s.fcsum && t.llen != s.llen && t.line[16] == s.line[16]) ∧
      nextWith (hostEvent (.txn (.write 0x02 0x07)) s) (fun t => t.fcmd != s.fcmd) ∧
      nextWith (hostEvent (.txn (.write 0x03 0x07)) s) (fun t => t.freg != s.freg) ∧
      nextWith (hostEvent (.txn (.write 0x04 0x07)) s) (fun t => t.fpay != s.fpay) ∧
      nextWith (hostEvent (.txn (.write 0x05 0x00)) s) (fun t => t.present != s.present) ∧
      nextWith (hostEvent (.txn (.write 0x07 0x07)) s) (fun t => t.llen != s.llen) ∧
      nextWith (hostEvent (.txn (.write 0x08 0x07)) s) (fun t => t.arg != s.arg) ∧
      nextWith (hostEvent (.txn (.write 0x20 0x07)) s) (fun t => t.line[16] != s.line[16]) ∧
      HostEvent.txn (.write 0x20 0x07) ≠ .reset := by
  decide +kernel

theorem witness_Swap16ExchangesTwoBytes :
    (withArg 0xFFFF 0 0).arg.toNat ≤ 0xFFFF ∧ 0xFFFF < (withArg 0x10000 0 0).arg.toNat := by decide

theorem witness_CsbyteSubtractsTheByte :
    (withArg 0xFF 0 0).arg.toNat ≤ 0xFF ∧ 0xFF < (withArg 0x100 0 0).arg.toNat := by decide

theorem witness_CsverifyComparesTheAccumulator :
    (withArg 0xFF 0xFF 0).arg.toNat ≤ 0xFF ∧ 0xFF < (withArg 0x100 0 0).arg.toNat := by decide

theorem witness_EncodeBuildsTheLine :
    ((framed 0xFF 0xFFFF 1 0).fcmd.toNat ≤ 0xFF ∧ (framed 0xFF 0xFFFF 1 0).freg.toNat ≤ 0xFFFF) ∧
      0xFF < (framed 0x100 0 0 0).fcmd.toNat ∧ 0xFFFF < (framed 0 0x10000 0 0).freg.toNat := by
  decide

/-- EN1 and EN26: two states that differ in FPAY, with PRESENT = 0. -/
theorem witness_EncodeIsDeterminedByItsOperands :
    let s := framed 0x07 0xEDD5 0 0
    let s' := framed 0x07 0xEDD5 0 0x1234
    s.fcmd = s'.fcmd ∧ s.freg = s'.freg ∧ s.present = s'.present ∧ (s.present = 1 → s.fpay = s'.fpay) ∧
      exec .encode s = .next (after (exec .encode s)) ∧ exec .encode s' = .next (after (exec .encode s')) ∧
      s.fcmd.toNat ≤ 0xFF ∧ s.freg.toNat ≤ 0xFFFF :=
  ⟨rfl, rfl, rfl, by decide, rfl, rfl, by decide, by decide⟩

/-- EN13. -/
theorem witness_PayloadIsSentLowByteFirst :
    let s := framed 0x08 0xEDF0 1 0x000003E8
    let t := after (exec .encode s)
    exec .encode s = .next t ∧ t.err = 0 ∧ s.present = 1 ∧ byteOf s.fpay 0 ≠ 0 ∧ t.width.toNat = nbytes s.fpay :=
  ⟨rfl, by decide +kernel, rfl, by decide, by decide +kernel⟩

/-- X1 and X2: no payload, the checksum right and wrong; X21: a 4-byte payload. -/
theorem witness_DecodeParsesTheLine :
    (PayloadBytes ([] : List Byte).length ∧ HoldsLine (loaded ":07D5ED8C") [0x07, 0xD5, 0xED, 0x8C] ∧
        checksum [0x07, 0xD5, 0xED] = 0x8C) ∧
      (HoldsLine (loaded ":07D5ED8D") [0x07, 0xD5, 0xED, 0x8D] ∧ checksum [0x07, 0xD5, 0xED] ≠ 0x8D) ∧
      PayloadBytes [(0x00 : Byte), 0xA0, 0x86, 0x01].length ∧
      HoldsLine (loaded ":08D5ED00A0860164") [0x08, 0xD5, 0xED, 0x00, 0xA0, 0x86, 0x01, 0x64] ∧
      checksum [0x08, 0xD5, 0xED, 0x00, 0xA0, 0x86, 0x01] = 0x64 := by
  decide +kernel

/-- X12 (a length of 15), X8 (no ':') and X4 (a lowercase digit). -/
theorem witness_DecodeRejectsMalformedLines :
    ((loaded ":08D5ED123456EF").llen.toNat = 15) ∧ (loaded ";07D5ED8C").line[0] ≠ 0x3A ∧
      (1 ≤ (3 : Fin Config.lineCap).val ∧ (3 : Fin Config.lineCap).val < (loaded ":07d5ed8c").llen.toNat ∧
        (loaded ":07d5ed8c").line[(3 : Fin Config.lineCap)].toNat = 0x64) := by
  decide +kernel

/-- X1. -/
theorem witness_DecodeAcceptsOnlyCheckedLines :
    exec .decode (loaded ":07D5ED8C") = .next (after (exec .decode (loaded ":07D5ED8C"))) ∧
      (after (exec .decode (loaded ":07D5ED8C"))).err = 0 := ⟨rfl, by decide +kernel⟩

/-- X1, with and without something past the line. -/
theorem witness_DecodeReadsOnlyTheLine :
    let s := loaded ":07D5ED8C"
    let s' := { s with line := s.line.set 9 0xFF }
    s.llen = s'.llen ∧ (∀ i : Fin Config.lineCap, i.val < s.llen.toNat → s.line[i] = s'.line[i]) ∧
      exec .decode s = .next (after (exec .decode s)) ∧ exec .decode s' = .next (after (exec .decode s')) :=
  ⟨rfl, by decide +kernel, rfl, rfl⟩

theorem witness_NameofFindsThePositionInAnyCatalog :
    catalogWellFormed (withArg 0xFFFF 0 0).catalog = true ∧ (withArg 0xFFFF 0 0).arg.toNat ≤ 0xFFFF ∧
      catalogWellFormed { withArg 0x10000 0 0 with catalog := [⟨0x9999, "A"⟩] }.catalog = true ∧
      0xFFFF < (withArg 0x10000 0 0).arg.toNat := by
  decide +kernel

theorem witness_NameofWithTheDefaultCatalog :
    (withArg 0xEDF6 0 0).catalog = Config.defaultCatalog ∧ (withArg 0xEDF6 0 0).arg.toNat ≤ 0xFFFF ∧
      (withArg 0x00010200 0 0).catalog = Config.defaultCatalog ∧ 0xFFFF < (withArg 0x00010200 0 0).arg.toNat :=
  ⟨rfl, by decide, rfl, by decide⟩

theorem witness_NameOfGivesTheEntryName :
    catalogWellFormed Config.defaultCatalog = true ∧
      (∃ e ∈ Config.defaultCatalog, e.address = 0xEDD5 ∧ e.name = "ChargerVoltageRegister") ∧
      ∀ e ∈ Config.defaultCatalog, e.address ≠ 0x9999 := by
  decide +kernel

theorem witness_BigEndianBytesAreInverse :
    (0x00FFFFFF : Word).toNat < 2 ^ (8 * 3) ∧ [(0x01 : Byte), 0x02, 0x03, 0x04].length ≤ 4 := by decide

theorem witness_ConversionsAgreeFromTwoBytesOn :
    0x0100 ≤ (0x0100 : Half).toNat ∧ 0x01 ≤ (0x01 : Half).toNat ∧ (0xFF : Half).toNat ≤ 0xFF ∧
      ∃ e ∈ Config.defaultCatalog, e.address = 0x0200 := by
  decide

theorem witness_ChecksumDetection :
    (0x07 : Byte) ≠ 0x06 ∧ [(0xD5 : Byte), 0xED].Perm [0xED, 0xD5] ∧
      ((0x08 : Byte) - 0x07) + ((0xD4 : Byte) - 0xD5) = 0 := by
  decide

/-- CK13. -/
theorem witness_CsbyteExtendsTheChecksum :
    (withArg 0xD5 0x4E 0).acc = checksum [0x07] ∧ (withArg 0xD5 0x4E 0).arg.toNat ≤ 0xFF := by decide

/-- EN9, with an ARG the host has written before the DECODE. -/
theorem witness_DecodeOfEncodeRoundTrip :
    let s := framed 0x08 0x0200 1 0x00000100
    let t := after (exec .encode s)
    let u := { t with arg := 7 }
    s.fcmd.toNat ≤ 0xFF ∧ s.freg.toNat ≤ 0xFFFF ∧ u.line = t.line ∧ u.llen = t.llen :=
  ⟨by decide, by decide, rfl, rfl⟩

/-- X19, a field wider than its value. -/
theorem witness_ReencodingKeepsTheChecksum :
    exec .decode (loaded ":08000200C883") = .next (after (exec .decode (loaded ":08000200C883"))) ∧
      (after (exec .decode (loaded ":08000200C883"))).err = 0 := ⟨rfl, by decide +kernel⟩

/-- X1, its last character flipped; and X1 beside X7, one wire byte apart. -/
theorem witness_EverySingleFlipIsDetected :
    let s := loaded ":07D5ED8C"
    exec .decode s = .next (after (exec .decode s)) ∧ (after (exec .decode s)).err = 0 ∧
      (8 : Fin Config.lineCap).val < s.llen.toNat ∧ (0x07 : Byte) ≠ 0x06 ∧
      HoldsLine s ([] ++ 0x07 :: [0xD5, 0xED, 0x8C]) ∧
      HoldsLine (loaded ":06D5ED8C") ([] ++ 0x06 :: [0xD5, 0xED, 0x8C]) :=
  ⟨rfl, by decide +kernel, by decide, by decide, by decide +kernel, by decide +kernel⟩

/-- SW9. -/
theorem witness_ErrorsWriteOnlyErr :
    performOp 0x00000004 (withArg 0x10000 0 0xAAAA) = .next { withArg 0x10000 0 0xAAAA with err := 1 } ∧
      (1 : BitVec 2) ≠ 0 := ⟨rfl, by decide⟩

/-- X2. -/
theorem witness_ErrorCodesByOperation :
    exec .decode (loaded ":07D5ED8D") = .next (after (exec .decode (loaded ":07D5ED8D"))) ∧ Instr.decode ≠ .nop ∧
      (after (exec .decode (loaded ":07D5ED8D"))).err = 2 := ⟨rfl, by decide, by decide +kernel⟩

/-- OP2. -/
theorem witness_IllegalOpHasOneCause :
    hostEvent (.txn (.write 0x00 0x00000009)) State.reset = .next { State.reset with err := 3 } ∧
      State.reset.err ≠ 3 := ⟨rfl, by decide⟩

theorem witness_ErrIsNotSticky : (0x00000005 : Word) ≠ 0x00000000 := by decide

theorem witness_OperationsWriteOnlyTheirRegisters :
    exec .conv (withArg 0x0100 0 0) = .next (withArg 0x0100 0 1) := rfl

/-- EN1. -/
theorem witness_FrameOperationsIgnoreAcc :
    exec .encode (framed 0x07 0xEDD5 0 0) = .next (after (exec .encode (framed 0x07 0xEDD5 0 0))) := rfl

/-- A step and an event, Reset, of a HEXCORE configured with a catalog of its own. -/
theorem witness_CatalogNeverChanges :
    let s := (State.configured [⟨0x9999, "A"⟩]).setPending [.reset]
    step s = .next (State.configured [⟨0x9999, "A"⟩]) ∧ hostEvent .reset s = .next s := ⟨rfl, rfl⟩

theorem witness_OnlyNameofReadsTheCatalog :
    Instr.conv ≠ .nameof ∧ exec .conv (withArg 0x0100 0 0) = .next (withArg 0x0100 0 1) := ⟨by decide, rfl⟩

theorem witness_StepKeepsWidthLegal :
    LegalWidth State.reset ∧ step State.reset = .next State.reset := ⟨by decide, rfl⟩

end Sys2Proof.Tests
end

