-- ==== Sys2Proof/Proofs/Scope.lean ====
section
/-! PROOFS of the statements of spec/00_scope.md: the byte helpers of R10 and the catalog parameter of R6. -/

namespace Sys2Proof.Machine

/-! ### `be_bytes` and `be_value` are inverse (R10) -/

/-- `be_bytes` keeps the low k bytes of a word, whatever its magnitude. -/
theorem beValue_beBytes (v : Word) (k : Nat) : beValue (beBytes v k) = v.toNat % 2 ^ (8 * k) := by
  induction k with
  | zero => simp [Nat.mod_one]
  | succ k ih =>
    calc beValue (beBytes v (k + 1))
        = v.toNat % 2 ^ (8 * k) + 2 ^ (8 * k) * (v.toNat / 2 ^ (8 * k) % 256) := by
          rw [beBytes_succ, beValue_cons, beBytes_length, byteOf_toNat, ih, Nat.add_comm,
            Nat.mul_comm (2 ^ (8 * k))]
      _ = v.toNat % (2 ^ (8 * k) * 2 ^ 8) := (Nat.mod_mul).symm
      _ = v.toNat % 2 ^ (8 * (k + 1)) := by rw [← pow_add, Nat.mul_succ]

/-- The bytes after the first do not reach its place. -/
theorem beValue_cons_div (b : Byte) (bs : List Byte) : beValue (b :: bs) / 2 ^ (8 * bs.length) = b.toNat := by
  rw [beValue_cons, Nat.add_comm, Nat.add_mul_div_right _ _ (Nat.two_pow_pos _), Nat.div_eq_of_lt (beValue_lt bs),
    Nat.zero_add]

/-- `be_value` is injective on the byte sequences of one length. -/
theorem eq_of_beValue_eq {bs cs : List Byte} (hlen : bs.length = cs.length) (hval : beValue bs = beValue cs) :
    bs = cs := by
  induction bs generalizing cs with
  | nil => exact (List.length_eq_zero_iff.mp hlen.symm).symm
  | cons b bs ih =>
    cases cs with
    | nil => simp at hlen
    | cons c cs =>
      have hlen' : bs.length = cs.length := by simpa using hlen
      have hhead : b.toNat = c.toNat := by
        rw [← beValue_cons_div b bs, hval, hlen', beValue_cons_div]
      have htail : beValue bs = beValue cs := by
        rw [beValue_cons, beValue_cons, hhead, hlen'] at hval
        exact Nat.add_left_cancel hval
      rw [BitVec.eq_of_toNat_eq hhead, ih hlen' htail]

/-- At most four bytes spell a number that a word holds untruncated. -/
theorem toNat_ofNat_beValue {bs : List Byte} (h : bs.length ≤ 4) :
    (BitVec.ofNat 32 (beValue bs)).toNat = beValue bs := by
  have hfit : 2 ^ (8 * bs.length) ≤ 2 ^ 32 := Nat.pow_le_pow_right (by decide) (by omega)
  rw [BitVec.toNat_ofNat, Nat.mod_eq_of_lt ((beValue_lt bs).trans_le hfit)]

/-- At most four bytes are read back from the word that holds their value. -/
theorem beBytes_ofNat_beValue {bs : List Byte} (h : bs.length ≤ 4) :
    beBytes (BitVec.ofNat 32 (beValue bs)) bs.length = bs := by
  apply eq_of_beValue_eq (beBytes_length _ _)
  rw [beValue_beBytes, toNat_ofNat_beValue h, Nat.mod_eq_of_lt (beValue_lt bs)]

/-- Settles O34: `be_bytes` then `be_value` is reduction mod 256^k, and `be_value` is injective on each length. -/
theorem bigEndianBytesAreInverse : Obligations.BigEndianBytesAreInverse := by
  unfold Obligations.BigEndianBytesAreInverse
  constructor
  · intro v k hv
    exact ⟨beBytes_length v k, by rw [beValue_beBytes, Nat.mod_eq_of_lt hv]⟩
  · intro bs hbs
    exact beBytes_ofNat_beValue hbs

/-! ### The catalog a HEXCORE starts with (R6, R190) -/

/-- The six addresses of the default catalog are distinct. -/
theorem defaultCatalog_wellFormed : catalogWellFormed Config.defaultCatalog = true := by decide

/-- `State.reset` has R250's value in every element of R21. -/
theorem reset_hasResetValues : Safety.HasResetValues State.reset := by decide

/-- The reset values are not about the catalog: another configuration starts with the same ones. -/
theorem configured_hasResetValues (cat : List CatalogEntry) : Safety.HasResetValues (State.configured cat) :=
  reset_hasResetValues

/-- Settles O55: the catalog is the only field in which `State.configured` differs from `State.reset`. -/
theorem resetCatalogIsTheDefault : Obligations.ResetCatalogIsTheDefault := by
  unfold Obligations.ResetCatalogIsTheDefault
  refine ⟨rfl, defaultCatalog_wellFormed, fun cat => ?_⟩
  exact ⟨State.configured_catalog cat, configured_hasResetValues cat⟩

end Sys2Proof.Machine
end

section
/-! PROOFS of the statements of spec/10_state.md: the index map of R22 and R36, what an operation can write (R23), the
legal widths of R29 and the catalog of R37. -/

namespace Sys2Proof.Machine

open Sys2Proof.Safety

/-! ### The index map (R22, R36, R38) -/

@[simp] theorem toNat_index_line (i : Fin Config.lineCap) : (HostReg.line i).index.toNat = 0x10 + i.val := by
  have hi : i.val < 17 := i.isLt
  simp only [HostReg.index, BitVec.toNat_ofNat]
  omega

/-- The named registers keep out of both reserved ranges. -/
theorem index_not_reserved (r : HostReg) :
    r.index.toNat ≤ 0x0A ∨ (0x10 ≤ r.index.toNat ∧ r.index.toNat ≤ 0x20) := by
  cases r with
  | line i =>
    have hi : i.val < 17 := i.isLt
    rw [toNat_index_line]
    omega
  | _ => exact .inl (by decide)

theorem regAt_reserved {idx : Index}
    (h : (0x0B ≤ idx.toNat ∧ idx.toNat ≤ 0x0F) ∨ (0x21 ≤ idx.toNat ∧ idx.toNat ≤ 0x3F)) : regAt idx = none := by
  rcases regAt_cases idx with ⟨r, -, rfl⟩ | ⟨hnone, -⟩
  · have hr := index_not_reserved r
    omega
  · exact hnone

theorem hostRead_of_regAt_some {s : State} {idx : Index} {r : HostReg} (h : regAt idx = some r) :
    hostRead s idx = s.readReg r := by
  simp only [hostRead, h]

theorem hostRead_of_regAt_none {s : State} {idx : Index} (h : regAt idx = none) : hostRead s idx = 0 := by
  simp only [hostRead, h]

theorem hostWrite_of_regAt_none {s : State} {idx : Index} {v : Word} (h : regAt idx = none) :
    hostWrite idx v s = .next s := by
  simp only [hostWrite, h]

/-- Settles O12: no register stands at a reserved index. -/
theorem reservedIndicesAreInert : Obligations.ReservedIndicesAreInert := by
  unfold Obligations.ReservedIndicesAreInert
  intro s idx v hidx
  have hnone := regAt_reserved hidx
  exact ⟨hostRead_of_regAt_none hnone, hostWrite_of_regAt_none hnone⟩

/-- Storing to one register changes the value of no other. FPCTL's two fields are one register here, and LINE's entries
are registers of their own. -/
theorem State.readReg_writeReg_of_ne (s : State) (v : Word) {r r' : HostReg} (h : r' ≠ r) :
    (s.writeReg v r).readReg r' = s.readReg r' := by
  cases r with
  | line i =>
    cases r' with
    | line j =>
      have hij : i.val ≠ j.val := fun e => h (congrArg HostReg.line (Fin.ext e.symm))
      simp [Vector.getElem_set_ne _ _ hij]
    | _ => rfl
  | _ => cases r' <;> simp at h ⊢

/-- Settles O14: the index map is injective, and the registers are stored apart. -/
theorem noIndexIsAnAlias : Obligations.NoIndexIsAnAlias := by
  unfold Obligations.NoIndexIsAnAlias
  intro s t idx other v hidx hother hwrite
  rcases hostWrite_next hwrite with ⟨hopr, -⟩ | ⟨r, -, rfl, rfl⟩ | ⟨-, rfl⟩
  · exact absurd hopr hidx
  · rcases regAt_cases other with ⟨r', hr', rfl⟩ | ⟨hnone, -⟩
    · have hne : r' ≠ r := fun e => hother (congrArg HostReg.index e)
      rw [hostRead_of_regAt_some hr', hostRead_of_regAt_some hr', State.readReg_writeReg_of_ne s v hne]
    · rw [hostRead_of_regAt_none hnone, hostRead_of_regAt_none hnone]
  · rfl

/-! ### What an operation can write (R23) -/

/-- The forms an operation's outcome can take, by the group of registers it writes: R23's column "written by ops". The
values written are left open, but for the payload width, which is one of R76's. -/
inductive OpOutcome (s : State) : Instr → State → Prop where
  | unchanged : OpOutcome s .nop s
  | raised (i : Instr) (e : ErrCode) : i ≠ .nop → OpOutcome s i (s.setErr e)
  | result (i : Instr) (v : Word) : i = .conv ∨ i = .swap16 ∨ i = .csverify ∨ i = .nameof →
      OpOutcome s i ((s.setRes v).setErr .ok)
  | accumulated (i : Instr) (b : Byte) : i = .csinit ∨ i = .csbyte → OpOutcome s i ((s.setAcc b).setErr .ok)
  | encoded (e : EncodedLine) : PayloadBytes e.width → OpOutcome s .encode ((s.storeEncoded e).setErr .ok)
  | decoded (f : Frame) : PayloadBytes f.width → OpOutcome s .decode ((s.storeFrame f).setErr .ok)

/-- Every answer of an operation has one of the forms. -/
theorem exec_outcome {i : Instr} {s t : State} (h : exec i s = .next t) : OpOutcome s i t := by
  cases i with
  | nop =>
    obtain rfl := execNop_next h
    exact .unchanged
  | encode =>
    rcases execEncode_next h with ⟨-, -, rfl⟩ | ⟨-, rfl⟩
    · exact .encoded _ (encodeFn_width_cases _ _ _)
    · exact .raised _ _ (by decide)
  | decode =>
    rcases execDecode_next h with ⟨-, rfl⟩ | ⟨-, rfl⟩ | ⟨f, hf, rfl⟩
    · exact .raised _ _ (by decide)
    · exact .raised _ _ (by decide)
    · exact .decoded f (decodeFn_ok_width hf)
  | conv =>
    obtain rfl := execConv_next h
    exact .result _ _ (by decide)
  | swap16 =>
    rcases execSwap16_next h with ⟨-, rfl⟩ | ⟨-, rfl⟩
    · exact .result _ _ (by decide)
    · exact .raised _ _ (by decide)
  | csinit =>
    obtain rfl := execCsinit_next h
    exact .accumulated _ _ (by decide)
  | csbyte =>
    rcases execCsbyte_next h with ⟨-, rfl⟩ | ⟨-, rfl⟩
    · exact .accumulated _ _ (by decide)
    · exact .raised _ _ (by decide)
  | csverify =>
    rcases execCsverify_next h with ⟨-, rfl⟩ | ⟨-, rfl⟩
    · exact .result _ _ (by decide)
    · exact .raised _ _ (by decide)
  | nameof =>
    rcases execNameof_next h with ⟨-, rfl⟩ | ⟨-, rfl⟩
    · exact .result _ _ (by decide)
    · exact .raised _ _ (by decide)

/-- Settles O49, form by form of an operation's outcome. -/
theorem operationsWriteOnlyTheirRegisters : Obligations.OperationsWriteOnlyTheirRegisters := by
  unfold Obligations.OperationsWriteOnlyTheirRegisters
  intro i s t h
  cases exec_outcome h with
  | unchanged => simp
  | raised _ e hi => simp [hi]
  | result _ v hi => rcases hi with rfl | rfl | rfl | rfl <;> simp
  | accumulated _ b hi => rcases hi with rfl | rfl <;> simp
  | encoded e _ => simp
  | decoded f _ => simp

/-! ### Invariants of the host's events -/

/-- A property of states that each thing a host event can do keeps: an operation, the IllegalOp of an OPR write that
names none, a register's storing, the answer to a read, Reset, and the host's going on to its next event. -/
structure EventInvariant (P : State → Prop) : Prop where
  exec : ∀ {i : Instr} {s t : State}, P s → OpOutcome s i t → P t
  illegalOp : ∀ {s : State}, P s → P (s.setErr .illegalOp)
  writeReg : ∀ {s : State} (v : Word) (r : HostReg), P s → P (s.writeReg v r)
  answer : ∀ {s : State} (v : Word), P s → P (s.answer v)
  resetEngine : ∀ {s : State}, P s → P s.resetEngine
  setPending : ∀ {s : State} (rest : List HostEvent), P s → P (s.setPending rest)

section
variable {P : State → Prop} {s t : State}

theorem EventInvariant.performOp (inv : EventInvariant P) {v : Word} (hs : P s) (h : performOp v s = .next t) : P t := by
  rcases performOp_next h with ⟨i, -, -, hexec⟩ | ⟨-, rfl⟩
  · exact inv.exec hs (exec_outcome hexec)
  · exact inv.illegalOp hs

theorem EventInvariant.hostWrite (inv : EventInvariant P) {idx : Index} {v : Word} (hs : P s)
    (h : hostWrite idx v s = .next t) : P t := by
  rcases hostWrite_next h with ⟨-, hop⟩ | ⟨r, -, -, rfl⟩ | ⟨-, rfl⟩
  · exact inv.performOp hs hop
  · exact inv.writeReg v r hs
  · exact hs

theorem EventInvariant.hostEvent (inv : EventInvariant P) {e : HostEvent} (hs : P s) (h : hostEvent e s = .next t) :
    P t := by
  match e, h with
  | .txn (.read _), rfl => exact inv.answer _ hs
  | .txn (.write _ _), h => exact inv.hostWrite hs h
  | .reset, rfl => exact inv.resetEngine hs

theorem EventInvariant.step (inv : EventInvariant P) (hs : P s) (h : step s = .next t) : P t := by
  rcases step_next h with ⟨-, rfl⟩ | ⟨idx, rest, -, rfl⟩ | ⟨idx, v, rest, -, hwrite⟩ | ⟨rest, -, rfl⟩
  · exact hs
  · exact inv.answer _ (inv.setPending rest hs)
  · exact inv.hostWrite (inv.setPending rest hs) hwrite
  · exact inv.resetEngine (inv.setPending rest hs)

end

/-! ### FPCTL.WIDTH is legal (R29) -/

/-- A payload width of R76 fits the three bits of WIDTH. -/
theorem legalWidth_of_payloadBytes {s : State} {k : Nat} (hk : PayloadBytes k) (hw : s.width = BitVec.ofNat 3 k) :
    LegalWidth s := by
  rcases hk with rfl | rfl | rfl | rfl <;> simp [LegalWidth, hw]

/-- Only ENCODE and DECODE write WIDTH, and each the width of a payload field. -/
theorem OpOutcome.legalWidth {i : Instr} {s t : State} (hs : LegalWidth s) (h : OpOutcome s i t) : LegalWidth t := by
  cases h with
  | unchanged => exact hs
  | raised => exact hs
  | result => exact hs
  | accumulated => exact hs
  | encoded e he => exact legalWidth_of_payloadBytes he rfl
  | decoded f hf => exact legalWidth_of_payloadBytes hf rfl

theorem legalWidth_eventInvariant : EventInvariant LegalWidth where
  exec := OpOutcome.legalWidth
  illegalOp hs := hs
  writeReg v r hs := by rwa [LegalWidth, State.writeReg_keeps_width]
  answer _ hs := hs
  resetEngine _ := .inl rfl
  setPending _ hs := hs

/-- Settles O52: legality of WIDTH is an invariant of the host's events. -/
theorem stepKeepsWidthLegal : Obligations.StepKeepsWidthLegal := by
  unfold Obligations.StepKeepsWidthLegal
  intro s t hs h
  exact legalWidth_eventInvariant.step hs h

/-- Settles O53: WIDTH is 0 after reset. -/
theorem widthIsLegalAtReset : Obligations.WidthIsLegalAtReset := by
  unfold Obligations.WidthIsLegalAtReset
  intro events
  exact .inl State.reset_width

/-! ### The catalog (R37, R193, R194) -/

theorem OpOutcome.catalog {i : Instr} {s t : State} (h : OpOutcome s i t) : t.catalog = s.catalog := by
  cases h <;> rfl

theorem catalog_eventInvariant (cat : List CatalogEntry) : EventInvariant (fun s => s.catalog = cat) where
  exec hs h := h.catalog.trans hs
  illegalOp hs := hs
  writeReg v r hs := (State.writeReg_keeps_catalog _ v r).trans hs
  answer _ hs := hs
  resetEngine hs := hs
  setPending _ hs := hs

/-- Settles O54: having the catalog that the state started with is an invariant of the host's events. -/
theorem catalogNeverChanges : Obligations.CatalogNeverChanges := by
  unfold Obligations.CatalogNeverChanges
  constructor
  · intro s t h
    exact (catalog_eventInvariant s.catalog).step rfl h
  · intro e s t h
    exact (catalog_eventInvariant s.catalog).hostEvent rfl h

/-- Replacing part of the state before an operation that raises is replacing it after, when STATUS.ERR is no part of
what is replaced. -/
theorem raise_replace {g : State → State} (hg : ∀ s e, (g s).setErr e = g (s.setErr e)) {e : ErrCode} {s t : State}
    (h : raise e s = .next t) : raise e (g s) = .next (g t) := by
  obtain rfl := raise_eq_next.mp h
  exact raise_eq_next.mpr (hg s e).symm

/-- The same of an operation that commits, when its writes are not replaced. -/
theorem commit_replace {g : State → State} (hg : ∀ s e, (g s).setErr e = g (s.setErr e)) {f : State → State}
    {s t : State} (hf : f (g s) = g (f s)) (h : commit f s = .next t) : commit f (g s) = .next (g t) := by
  obtain rfl := commit_eq_next.mp h
  exact commit_eq_next.mpr (by rw [hf, hg])

/-- `s` with the catalog `cat`. -/
def State.withCatalog (cat : List CatalogEntry) (s : State) : State := { s with catalog := cat }

theorem State.withCatalog_setErr (cat : List CatalogEntry) (s : State) (e : ErrCode) :
    (s.withCatalog cat).setErr e = (s.setErr e).withCatalog cat := rfl

@[simp] theorem State.withCatalog_fcmd (cat : List CatalogEntry) (s : State) : (s.withCatalog cat).fcmd = s.fcmd := rfl
@[simp] theorem State.withCatalog_freg (cat : List CatalogEntry) (s : State) : (s.withCatalog cat).freg = s.freg := rfl
@[simp] theorem State.withCatalog_llen (cat : List CatalogEntry) (s : State) : (s.withCatalog cat).llen = s.llen := rfl
@[simp] theorem State.withCatalog_line (cat : List CatalogEntry) (s : State) : (s.withCatalog cat).line = s.line := rfl
@[simp] theorem State.withCatalog_arg (cat : List CatalogEntry) (s : State) : (s.withCatalog cat).arg = s.arg := rfl

/-- The operations other than NAMEOF commute with a change of the catalog: their operands, and what decides whether
they raise, are read from registers. -/
theorem exec_withCatalog {i : Instr} {s t : State} (cat : List CatalogEntry) (hi : i ≠ .nameof)
    (h : exec i s = .next t) : exec i (s.withCatalog cat) = .next (t.withCatalog cat) := by
  have hg := State.withCatalog_setErr cat
  cases i with
  | nop =>
    obtain rfl := execNop_next h
    rfl
  | encode =>
    simp only [exec, execEncode, State.withCatalog_fcmd, State.withCatalog_freg] at h ⊢
    split at h
    · exact commit_replace hg rfl h
    · exact raise_replace hg h
  | decode =>
    simp only [exec, execDecode, State.withCatalog_llen, State.withCatalog_line] at h ⊢
    split at h
    · exact raise_replace hg h
    · exact raise_replace hg h
    · exact commit_replace hg rfl h
  | conv => exact commit_replace (f := fun s => s.setRes (revMin s.arg)) hg rfl h
  | csinit => exact commit_replace (f := fun s => s.setAcc Config.csumSeed) hg rfl h
  | swap16 | csbyte | csverify =>
    simp only [exec, execSwap16, execCsbyte, execCsverify, State.withCatalog_arg] at h ⊢
    split at h
    · exact raise_replace hg h
    · exact commit_replace hg rfl h
  | nameof => exact absurd rfl hi

/-- Settles O56: each operation but NAMEOF commutes with a change of the catalog. -/
theorem onlyNameofReadsTheCatalog : Obligations.OnlyNameofReadsTheCatalog := by
  unfold Obligations.OnlyNameofReadsTheCatalog
  intro i s t cat hi h
  exact exec_withCatalog cat hi h

end Sys2Proof.Machine
end

section
/-! PROOFS of the statements of spec/20_memory.md: what a host write stores (R60, R61, R64), what can change a register
(R61), and the byte order of the wire (R53, R54). -/

namespace Sys2Proof.Machine

open Sys2Proof.Safety

/-! ### A host write, read back and repeated (R60, R61, R64) -/

/-- A write to a named register other than OPR stores, and nothing else. -/
theorem hostWrite_index {r : HostReg} (s : State) (v : Word) (hr : r ≠ .opr) :
    hostWrite r.index v s = .next (s.writeReg v r) := by
  cases r with
  | opr => exact absurd rfl hr
  | _ => simp only [hostWrite, regAt_index]

/-- An index that names no register lies in a reserved range (R36). -/
theorem reserved_of_regAt_none {idx : Index} (h : regAt idx = none) :
    (0x0B ≤ idx.toNat ∧ idx.toNat ≤ 0x0F) ∨ 0x21 ≤ idx.toNat := by
  rcases regAt_cases idx with ⟨r, hr, -⟩ | ⟨-, hout⟩
  · rw [h] at hr
    cases hr
  · exact hout

@[simp] theorem hostRead_index (s : State) (r : HostReg) : hostRead s r.index = s.readReg r :=
  hostRead_of_regAt_some (regAt_index r)

/-- A field at the bottom of a word is the word under the field's mask. -/
theorem setWidth_extractLsb'_zero (v : Word) {n : Nat} (hn : n ≤ 32) :
    (v.extractLsb' 0 n).setWidth 32 = v &&& BitVec.ofNat 32 (2 ^ n - 1) := by
  have hpow : 2 ^ n ≤ 2 ^ 32 := Nat.pow_le_pow_right (by decide) hn
  have hpos : 0 < 2 ^ n := Nat.two_pow_pos n
  have hmod : v.toNat % 2 ^ n < 2 ^ n := Nat.mod_lt _ hpos
  apply BitVec.eq_of_toNat_eq
  rw [BitVec.toNat_setWidth, BitVec.extractLsb'_toNat, Nat.shiftRight_zero, BitVec.toNat_and, BitVec.toNat_ofNat,
    Nat.mod_eq_of_lt (a := 2 ^ n - 1) (by omega), Nat.and_two_pow_sub_one_eq_mod, Nat.mod_eq_of_lt (by omega)]

/-- FPCTL's mask 0x70 keeps WIDTH and drops PRESENT. -/
theorem fpctl_and_widthMask (p : BitVec 1) (w : BitVec 3) :
    (p.setWidth 32 ||| (w.setWidth 32 <<< 4)) &&& (0x00000070 : Word) = w.setWidth 32 <<< 4 := by
  revert p w
  decide

theorem State.readReg_writeReg_fpctl (s : State) (v : Word) :
    (s.writeReg v .fpctl).readReg .fpctl = (s.readReg .fpctl &&& 0x00000070) ||| (v &&& 0x00000001) := by
  simp only [State.writeReg_fpctl, State.readReg_fpctl]
  rw [fpctl_and_widthMask, setWidth_extractLsb'_zero v (by decide), BitVec.or_comm]
  rfl

theorem State.readReg_writeReg_line (s : State) (v : Word) (i : Fin Config.lineCap) :
    (s.writeReg v (.line i)).readReg (.line i) = v &&& 0x000000FF := by
  simpa using setWidth_extractLsb'_zero v (n := 8) (by decide)

/-- Settles O13, register by register; a reserved index is none of those that take a bit. -/
theorem readAfterWrite : Obligations.ReadAfterWrite := by
  unfold Obligations.ReadAfterWrite
  intro s t idx v hidx hwrite
  rcases hostWrite_next hwrite with ⟨hopr, -⟩ | ⟨r, hr, rfl, rfl⟩ | ⟨hnone, rfl⟩
  · exact absurd hopr hidx
  · rw [hostRead_index, hostRead_index]
    cases r with
    | opr => exact absurd rfl hr
    | fcmd | freg | fpay | llen | arg => rfl
    | status | fcsum | res | acc => rfl
    | fpctl => exact s.readReg_writeReg_fpctl v
    | line i =>
      have hi : i.val < 17 := i.isLt
      have hrange : 0x10 ≤ (HostReg.line i).index.toNat ∧ (HostReg.line i).index.toNat ≤ 0x20 := by
        rw [toNat_index_line]
        omega
      have hne : ∀ k : Index, k.toNat < 0x10 → (HostReg.line i).index ≠ k := by
        rintro k hk rfl
        omega
      rw [if_neg (by simp [hne]), if_neg (hne _ (by decide)), if_pos hrange]
      exact s.readReg_writeReg_line v i
  · have hout := reserved_of_regAt_none hnone
    have hne : ∀ k : Index, k.toNat < 0x0B → idx ≠ k := by
      rintro k hk rfl
      omega
    rw [if_neg (by simp [hne]), if_neg (hne _ (by decide)), if_neg (by omega)]

/-- Storing the same value twice is storing it once. -/
theorem State.writeReg_writeReg (s : State) (v : Word) (r : HostReg) :
    (s.writeReg v r).writeReg v r = s.writeReg v r := by
  cases r with
  | line i => simp
  | _ => rfl

/-- Settles O15: a register's storing is idempotent, and a reserved index stores nothing. -/
theorem writeIsIdempotent : Obligations.WriteIsIdempotent := by
  unfold Obligations.WriteIsIdempotent
  intro s t idx v hidx hwrite
  rcases hostWrite_next hwrite with ⟨hopr, -⟩ | ⟨r, hr, rfl, rfl⟩ | ⟨-, rfl⟩
  · exact absurd hopr hidx
  · rw [hostWrite_index _ _ hr, State.writeReg_writeReg]
  · exact hwrite

/-! ### What can change a register (R61) -/

/-- No other operation shares NOP's word. -/
theorem encode_ne_encode_nop {i : Instr} (hi : i ≠ .nop) : encode i ≠ encode .nop := by
  cases i with
  | nop => exact absurd rfl hi
  | _ => decide

/-- A write to one LINE entry changes that entry only. -/
theorem State.eq_of_writeReg_line_ne (s : State) {v : Word} {i j : Fin Config.lineCap}
    (h : (s.writeReg v (.line j)).line[i] ≠ s.line[i]) : j = i := by
  by_contra hne
  exact h (Vector.getElem_set_ne j.isLt i.isLt (Fin.val_ne_of_ne hne))

/-- Settles O16, by the event: a read changes nothing, an OPR write what the form of its operation's outcome allows, a
register write that register. -/
theorem everyChangeHasItsCause : Obligations.EveryChangeHasItsCause := by
  unfold Obligations.EveryChangeHasItsCause
  intro e s t h hreset
  match e, h with
  | .reset, _ => exact absurd rfl hreset
  | .txn (.read idx), rfl => simp
  | .txn (.write idx v), h =>
    rcases hostWrite_next h with ⟨rfl, hop⟩ | ⟨r, -, rfl, rfl⟩ | ⟨-, rfl⟩
    · rcases performOp_next hop with ⟨i, -, rfl, hexec⟩ | ⟨hv, rfl⟩
      · cases exec_outcome hexec with
        | unchanged => simp
        | raised _ code hi => simp [encode_ne_encode_nop hi]
        | result _ x hi => rcases hi with rfl | rfl | rfl | rfl <;> simp [encode_ne_encode_nop]
        | accumulated _ b hi => rcases hi with rfl | rfl <;> simp [encode_ne_encode_nop]
        | encoded e _ => simp [encode_ne_encode_nop]
        | decoded f _ => simp [encode_ne_encode_nop]
      · have hnop : v ≠ encode .nop := by
          rintro rfl
          exact absurd hv (by decide)
        simp [hnop]
    · cases r with
      | line j =>
        have hline : ∀ i : Fin Config.lineCap, (s.writeReg v (.line j)).line[i] ≠ s.line[i] →
            (HostReg.line j).index = (HostReg.line i).index ∨ (HostReg.line j).index = 0 ∧ v = encode .encode :=
          fun i hi => .inl (by rw [s.eq_of_writeReg_line_ne hi])
        simpa using hline
      | _ => simp [HostReg.index]
    · simp

/-! ### The line that ENCODE writes, as wire bytes (R53) -/

theorem extractLsb'_extractLsb'_of_add_le {w a b m n : Nat} (v : BitVec w) (h : b + n ≤ m) :
    (v.extractLsb' a m).extractLsb' b n = v.extractLsb' (a + b) n := by
  ext i hi
  have him : b + i < m := by omega
  simp [him, Nat.add_assoc]

/-- The two digits of byte k of a word are its digits 2k + 1 and 2k. -/
theorem hexPair_byteOf (v : Word) (k : Nat) :
    hexPair (byteOf v k) = [hexchar (v.extractLsb' (4 * (2 * k + 1)) 4), hexchar (v.extractLsb' (4 * (2 * k)) 4)] := by
  have hhigh : 8 * k + 4 = 4 * (2 * k + 1) := by omega
  have hlow : 8 * k + 0 = 4 * (2 * k) := by omega
  rw [hexPair, byteOf, extractLsb'_extractLsb'_of_add_le v (by decide),
    extractLsb'_extractLsb'_of_add_le v (by decide), hhigh, hlow]

/-- The low 2k digits of a word spell its low k bytes. -/
theorem hexN_two_mul (v : Word) (k : Nat) : hexN v (2 * k) = (beBytes v k).flatMap hexPair := by
  induction k with
  | zero => rfl
  | succ k ih => rw [Nat.mul_succ, hexN_succ, hexN_succ, ih, beBytes_succ, List.flatMap_cons, hexPair_byteOf]; rfl

/-- The wire bytes before the checksum (R140, R141). -/
def wireBody (c : Byte) (r : Half) (p : Option Word) : List Byte :=
  headerBytes c r ++ beBytes (payloadField p).1 (payloadField p).2

theorem encodeFn_checksum (c : Byte) (r : Half) (p : Option Word) :
    (encodeFn c r p).checksum = checksum (wireBody c r p) := rfl

theorem wireBody_length (c : Byte) (r : Half) (p : Option Word) :
    (wireBody c r p).length = 3 + (encodeFn c r p).width := by
  rw [wireBody, List.length_append, beBytes_length, encodeFn_width]
  rfl

/-- The two digits of a byte, as the encoder writes them. -/
theorem hexN_byte (b : Byte) : hexN (b.setWidth 32) 2 = [b].flatMap hexPair := by
  rw [hexN_two_mul _ 1]
  simp [byteOf, BitVec.extractLsb'_setWidth_of_le]

/-- The four digits of a register address, as the encoder writes them. -/
theorem hexN_half (r : Half) : hexN (r.setWidth 32) 4 = [r.extractLsb' 8 8, r.extractLsb' 0 8].flatMap hexPair := by
  rw [hexN_two_mul _ 2]
  simp [byteOf, BitVec.extractLsb'_setWidth_of_le]

/-- The encoder's text spells its wire bytes, the checksum last (R147). -/
theorem encodeFn_text (c : Byte) (r : Half) (p : Option Word) :
    (encodeFn c r p).text = textOf (wireBody c r p ++ [checksum (wireBody c r p)]) := by
  have hheader : headerBytes c r = [c] ++ [(swap16 r).extractLsb' 8 8, (swap16 r).extractLsb' 0 8] := rfl
  rw [textOf, List.flatMap_append, ← hexN_byte, wireBody, List.flatMap_append, ← hexN_two_mul, hheader,
    List.flatMap_append, ← hexN_byte, ← hexN_half, ← hheader]
  rfl

theorem flatMap_hexPair_getElem? {bs : List Byte} {j : Nat} {b : Byte} (h : bs[j]? = some b) :
    (bs.flatMap hexPair)[2 * j]? = some (hexchar (b.extractLsb' 4 4)) ∧
      (bs.flatMap hexPair)[2 * j + 1]? = some (hexchar (b.extractLsb' 0 4)) := by
  induction bs generalizing j with
  | nil => simp at h
  | cons a bs ih =>
    cases j with
    | zero =>
      obtain rfl : a = b := by simpa using h
      exact ⟨rfl, rfl⟩
    | succ j => exact ih (by simpa using h)

/-- The byte at place j of a text's byte sequence is spelled by characters 1 + 2j and 2 + 2j (R53). -/
theorem textOf_getElem? {bs : List Byte} {j : Nat} {b : Byte} (h : bs[j]? = some b) :
    (textOf bs)[1 + 2 * j]? = some (hexchar (b.extractLsb' 4 4)) ∧
      (textOf bs)[2 + 2 * j]? = some (hexchar (b.extractLsb' 0 4)) := by
  rw [Nat.add_comm 1, Nat.add_comm 2]
  exact flatMap_hexPair_getElem? h

theorem charAt_eq_getElem (chars : Vector Byte Config.lineCap) {i : Nat} (hi : i < Config.lineCap) :
    charAt chars i = chars[i] := by
  simp [charAt, Vector.getD, hi]

theorem charAt_padLine {text : List Byte} {i : Nat} {c : Byte} (hi : i < Config.lineCap) (h : text[i]? = some c) :
    charAt (padLine text) i = c := by
  simp [charAt_eq_getElem _ hi, padLine, h]

@[simp] theorem digitOf_hexchar (n : Nibble) : digitOf (hexchar n) = n := by
  simp [digitOf]

/-- A byte is 16 times its high digit and its low digit. -/
theorem high_digit_add_low_digit (b : Byte) :
    16 * (b.extractLsb' 4 4).setWidth 8 + (b.extractLsb' 0 4).setWidth 8 = b := by
  revert b
  decide +kernel

/-- Reading the wire bytes of a line that a text was written to gives the bytes that the text spells. -/
theorem wireByte_padLine_textOf {bs : List Byte} {j : Nat} {b : Byte} (hlen : bs.length ≤ 8) (h : bs[j]? = some b) :
    wireByte (padLine (textOf bs)) j = b := by
  obtain ⟨hj, -⟩ := List.getElem?_eq_some_iff.mp h
  obtain ⟨hhigh, hlow⟩ := textOf_getElem? h
  rw [wireByte, charAt_padLine (by simp only [Config.lineCap]; omega) hhigh,
    charAt_padLine (by simp only [Config.lineCap]; omega) hlow, digitOf_hexchar, digitOf_hexchar,
    high_digit_add_low_digit]

/-! ### The byte order of the payload (R54) -/

theorem nbytes_le_four (v : Word) : nbytes v ≤ 4 := by
  rcases nbytes_cases v with h | h | h | h <;> omega

/-- The converted value, in the payload's own number of bytes, is the payload's bytes from the least significant on. -/
theorem beBytes_revMin (v : Word) : beBytes (revMin v) (nbytes v) = leBytes v (nbytes v) := by
  have h := beBytes_ofNat_beValue (bs := leBytes v (nbytes v)) (by simpa using nbytes_le_four v)
  rwa [leBytes_length] at h

theorem leBytes_getElem? {v : Word} {n j : Nat} (hj : j < n) : (leBytes v n)[j]? = some (byteOf v j) := by
  simp [leBytes, hj]

/-- An ENCODE that ends without an error has stored the encoded line. -/
theorem execEncode_ok {s t : State} (h : execEncode s = .next t) (herr : t.err = 0) :
    t = (s.storeEncoded
      (encodeFn (s.fcmd.extractLsb' 0 8) (s.freg.extractLsb' 0 16) (payloadOperand s))).setErr .ok := by
  rcases execEncode_next h with ⟨-, -, ht⟩ | ⟨-, rfl⟩
  · exact ht
  · exact absurd herr (by simp)

/-- A successful ENCODE leaves its wire bytes in LINE, each where its two characters stand. -/
theorem wireByte_encodeFn {c : Byte} {r : Half} {p : Option Word} {j : Nat} {b : Byte}
    (h : (wireBody c r p)[j]? = some b) : wireByte (padLine (encodeFn c r p).text) j = b := by
  have hwidth := encodeFn_width_cases c r p
  obtain ⟨hj, -⟩ := List.getElem?_eq_some_iff.mp h
  rw [encodeFn_text]
  refine wireByte_padLine_textOf ?_ (by rw [List.getElem?_append_left hj, h])
  rw [List.length_append, wireBody_length, List.length_singleton]
  omega

/-- The payload's bytes follow the three header bytes. -/
theorem wireBody_payload (c : Byte) (r : Half) (p : Option Word) (j : Nat) :
    (wireBody c r p)[3 + j]? = (beBytes (payloadField p).1 (payloadField p).2)[j]? := by
  rw [Nat.add_comm]
  rfl

/-- WIDTH as ENCODE stores it is the payload's width, untruncated. -/
theorem toNat_ofNat_encodeFn_width (c : Byte) (r : Half) (p : Option Word) :
    (BitVec.ofNat 3 (encodeFn c r p).width).toNat = (encodeFn c r p).width := by
  rcases encodeFn_width_cases c r p with h | h | h | h <;> rw [h] <;> rfl

/-- Settles O25: in nbytes(FPAY) bytes, `rev_min` and the big-endian packing cancel. The low byte of FPAY plays no part
once the width is nbytes(FPAY). -/
theorem payloadIsSentLowByteFirst : Obligations.PayloadIsSentLowByteFirst := by
  unfold Obligations.PayloadIsSentLowByteFirst
  intro s t h herr hpresent _ hwidth j hj
  obtain rfl := execEncode_ok h herr
  have hpay : payloadOperand s = some s.fpay := if_pos hpresent
  rw [State.setErr_width, State.storeEncoded_width, toNat_ofNat_encodeFn_width, encodeFn_width, hpay] at hwidth
  rw [State.setErr_line, State.storeEncoded_line, hpay]
  apply wireByte_encodeFn
  calc (wireBody _ _ (some s.fpay))[3 + j]?
      = (beBytes (revMin s.fpay) (nbytes s.fpay))[j]? := by rw [wireBody_payload, hwidth]; rfl
    _ = (leBytes s.fpay (nbytes s.fpay))[j]? := by rw [beBytes_revMin]
    _ = some (byteOf s.fpay j) := leBytes_getElem? hj

end Sys2Proof.Machine
end

section
/-! PROOFS of the statements of spec/30_encoding.md: the operation words (R70 to R73) and the 40-bit transaction words
(R86). -/

namespace Sys2Proof.Machine

open Sys2Proof.Laws

/-! ### Operation words (R70 to R73) -/

/-- What is stated of every operation's word, for an operation that is not known. -/
theorem opWord_statement (i : Instr) : OpWord.Statement i := by
  cases i with
  | nop => exact OpWord.nop
  | encode => exact OpWord.encode
  | decode => exact OpWord.decode
  | conv => exact OpWord.conv
  | swap16 => exact OpWord.swap16
  | csinit => exact OpWord.csinit
  | csbyte => exact OpWord.csbyte
  | csverify => exact OpWord.csverify
  | nameof => exact OpWord.nameof

@[simp] theorem decode_encode (i : Instr) : decode (encode i) = .op i := by
  obtain ⟨-, hdecode, -⟩ := opWord_statement i
  exact hdecode

theorem encode_toNat_lt_nine (i : Instr) : (encode i).toNat < 9 := by
  obtain ⟨-, -, hlt⟩ := opWord_statement i
  exact hlt

/-- An operation is read from its own word only. -/
theorem decode_eq_op_iff {v : Word} {i : Instr} : decode v = .op i ↔ v = encode i := by
  constructor
  · intro h
    rcases decode_cases v with ⟨j, hj, hword⟩ | ⟨hillegal, -⟩
    · obtain rfl : j = i := Decoded.op.inj (hj.symm.trans h)
      exact hword.symm
    · cases hillegal.symm.trans h
  · rintro rfl
    exact decode_encode i

theorem decode_of_nine_le {v : Word} (hv : 9 ≤ v.toNat) : decode v = .illegal v := by
  rcases decode_cases v with ⟨i, -, rfl⟩ | ⟨hillegal, -⟩
  · exact absurd hv (Nat.not_le.mpr (encode_toNat_lt_nine i))
  · exact hillegal

/-- A write to OPR stores nothing of its own: it performs the word. -/
theorem hostWrite_opr (v : Word) (s : State) : hostWrite HostReg.opr.index v s = performOp v s := by
  simp only [hostWrite, regAt_index]

theorem performOp_of_nine_le {v : Word} (s : State) (hv : 9 ≤ v.toNat) :
    performOp v s = .next (s.setErr .illegalOp) := by
  simp only [performOp, decode_of_nine_le hv, raise]

/-- Settles O2: the nine words are those that `encode` gives. -/
theorem opcodeMapValues : Obligations.OpcodeMapValues := by
  unfold Obligations.OpcodeMapValues
  exact ⟨decode_encode .nop, decode_encode .encode, decode_encode .decode, decode_encode .conv, decode_encode .swap16,
    decode_encode .csinit, decode_encode .csbyte, decode_encode .csverify, decode_encode .nameof⟩

/-- Settles O3: every operation is well formed, so the hypothesis plays no part. -/
theorem decodeReadsExactlyTheEncodedWord : Obligations.DecodeReadsExactlyTheEncodedWord := by
  unfold Obligations.DecodeReadsExactlyTheEncodedWord
  intro i v _
  exact decode_eq_op_iff

/-- Settles O4: no operation's word is above 8, and index 0 is OPR. -/
theorem otherOpcodesRaiseIllegalOp : Obligations.OtherOpcodesRaiseIllegalOp := by
  unfold Obligations.OtherOpcodesRaiseIllegalOp
  intro v s hv
  refine ⟨decode_of_nine_le hv, ?_⟩
  calc hostWrite 0x00 v s = performOp v s := hostWrite_opr v s
    _ = .next (s.setErr .illegalOp) := performOp_of_nine_le s hv

/-! ### Transaction words (R86) -/

/-- The 40-bit word with the fields of R86: bit 39, W, IDX and DATA. -/
def transactionWord (reserved w : BitVec 1) (idx : Index) (data : Word) : BitVec 40 := reserved ++ w ++ idx ++ data

theorem encodeTransaction_read (idx : Index) : encodeTransaction (.read idx) = transactionWord 0#1 0#1 idx 0 := rfl

theorem encodeTransaction_write (idx : Index) (v : Word) :
    encodeTransaction (.write idx v) = transactionWord 0#1 1#1 idx v := rfl

/-- Concatenation is positional, as the fields do not overlap. -/
theorem toNat_append_eq_add {m n : Nat} (x : BitVec m) (y : BitVec n) :
    (x ++ y).toNat = x.toNat * 2 ^ n + y.toNat := by
  rw [BitVec.toNat_append, ← Nat.shiftLeft_add_eq_or_of_lt y.isLt, Nat.shiftLeft_eq]

theorem toNat_transactionWord (reserved w : BitVec 1) (idx : Index) (data : Word) :
    (transactionWord reserved w idx data).toNat =
      reserved.toNat * 2 ^ 39 + w.toNat * 2 ^ 38 + idx.toNat * 2 ^ 32 + data.toNat := by
  simp only [transactionWord, toNat_append_eq_add]
  omega

section
variable (reserved w : BitVec 1) (idx : Index) (data : Word)

theorem transactionWord_reserved : (transactionWord reserved w idx data).extractLsb' 39 1 = reserved := by
  rw [transactionWord, BitVec.extractLsb'_append_eq_of_le (by decide), BitVec.extractLsb'_append_eq_of_le (by decide),
    BitVec.extractLsb'_append_eq_of_le (by decide), BitVec.extractLsb'_eq_self]

theorem transactionWord_w : (transactionWord reserved w idx data).extractLsb' 38 1 = w := by
  rw [transactionWord, BitVec.extractLsb'_append_eq_of_le (by decide), BitVec.extractLsb'_append_eq_of_le (by decide),
    BitVec.extractLsb'_append_eq_of_add_le (by decide), BitVec.extractLsb'_eq_self]

theorem transactionWord_idx : (transactionWord reserved w idx data).extractLsb' 32 6 = idx := by
  rw [transactionWord, BitVec.extractLsb'_append_eq_of_le (by decide),
    BitVec.extractLsb'_append_eq_of_add_le (by decide), BitVec.extractLsb'_eq_self]

theorem transactionWord_data : (transactionWord reserved w idx data).extractLsb' 0 32 = data := by
  rw [transactionWord, BitVec.extractLsb'_append_eq_of_add_le (by decide), BitVec.extractLsb'_eq_self]

/-- The decoder reads each field from its place. -/
theorem decodeTransaction_transactionWord :
    decodeTransaction (transactionWord reserved w idx data) =
      if reserved = 1#1 then none
      else if w = 1#1 then some (.write idx data)
      else if data = 0 then some (.read idx)
      else none := by
  simp only [decodeTransaction, transactionWord_reserved, transactionWord_w, transactionWord_idx, transactionWord_data]

end

/-- Every 40-bit word is made of its four fields. -/
theorem transactionWord_extractLsb' (x : BitVec 40) :
    transactionWord (x.extractLsb' 39 1) (x.extractLsb' 38 1) (x.extractLsb' 32 6) (x.extractLsb' 0 32) = x := by
  apply BitVec.eq_of_toNat_eq
  rw [toNat_transactionWord]
  simp only [BitVec.extractLsb'_toNat, Nat.shiftRight_eq_div_pow]
  omega

@[simp] theorem decodeTransaction_encodeTransaction (x : Transaction) :
    decodeTransaction (encodeTransaction x) = some x := by
  cases x with
  | read idx => rw [encodeTransaction_read, decodeTransaction_transactionWord]; rfl
  | write idx v => rw [encodeTransaction_write, decodeTransaction_transactionWord]; rfl

/-- No transaction has a second word: the bits that `encodeTransaction` fixes are those that the decoder checks. -/
theorem encodeTransaction_of_decodeTransaction {word : BitVec 40} {x : Transaction}
    (h : decodeTransaction word = some x) : encodeTransaction x = word := by
  rw [← transactionWord_extractLsb' word] at h ⊢
  generalize word.extractLsb' 39 1 = reserved, word.extractLsb' 38 1 = w, word.extractLsb' 32 6 = idx,
    word.extractLsb' 0 32 = data at h ⊢
  rw [decodeTransaction_transactionWord] at h
  rcases reserved.eq_zero_or_eq_one with rfl | rfl
  · rcases w.eq_zero_or_eq_one with rfl | rfl
    · obtain ⟨rfl, rfl⟩ : data = 0 ∧ Transaction.read idx = x := by simpa using h
      exact encodeTransaction_read idx
    · obtain rfl : Transaction.write idx data = x := by simpa using h
      exact encodeTransaction_write idx data
  · simp at h

/-- Settles O5, from the places of the four fields. -/
theorem transactionWordsRoundTrip : Obligations.TransactionWordsRoundTrip := by
  unfold Obligations.TransactionWordsRoundTrip
  refine ⟨fun idx v => ⟨?_, ?_⟩, by decide, decodeTransaction_encodeTransaction,
    fun word x => encodeTransaction_of_decodeTransaction⟩
  · rw [encodeTransaction_write, toNat_transactionWord]
    simp
  · rw [encodeTransaction_read, toNat_transactionWord]
    simp

end Sys2Proof.Machine
end

section
/-! PROOFS of the statements of spec/40_byte_order.md: `swap16` and `rev_min` (R100, R101, R104 to R107), and the two
operations that apply them (R102, R103). -/

namespace Sys2Proof.Machine

open Sys2Proof.Safety

/-! ### The minimal byte count (R10) -/

/-- `nbytes` is a byte count that holds the value, and no smaller one does. -/
theorem nbytes_spec (v : Word) :
    1 ≤ nbytes v ∧ nbytes v ≤ 4 ∧ v.toNat < 2 ^ (8 * nbytes v) ∧
      (nbytes v = 1 ∨ 2 ^ (8 * (nbytes v - 1)) ≤ v.toNat) := by
  rcases nbytes_cases v with ⟨hn, hv⟩ | ⟨hn, hlo, hv⟩ | ⟨hn, hlo, hv⟩ | ⟨hn, hlo⟩ <;> rw [hn]
  · exact ⟨by decide, by decide, hv, .inl rfl⟩
  · exact ⟨by decide, by decide, hv, .inr hlo⟩
  · exact ⟨by decide, by decide, hv, .inr hlo⟩
  · exact ⟨by decide, by decide, v.isLt, .inr hlo⟩

theorem nbytes_le_iff {v : Word} {k : Nat} (hk : 1 ≤ k) : nbytes v ≤ k ↔ v.toNat < 2 ^ (8 * k) := by
  obtain ⟨-, -, hlt, hmin⟩ := nbytes_spec v
  constructor
  · intro h
    exact hlt.trans_le (Nat.pow_le_pow_right (by decide) (by omega))
  · intro h
    by_contra hgt
    have hpow : 2 ^ (8 * k) ≤ 2 ^ (8 * (nbytes v - 1)) := Nat.pow_le_pow_right (by decide) (by omega)
    omega

/-! ### The bytes of a word, least significant first -/

@[simp] theorem leBytes_zero (v : Word) : leBytes v 0 = [] := rfl

theorem leBytes_succ (v : Word) (n : Nat) : leBytes v (n + 1) = leBytes v n ++ [byteOf v n] := by
  simp [leBytes, List.range_succ]

theorem leBytes_succ_eq_cons (v : Word) (n : Nat) :
    leBytes v (n + 1) = byteOf v 0 :: (List.range n).map fun i => byteOf v (i + 1) := by
  simp [leBytes, List.range_succ_eq_map]

theorem reverse_beBytes (v : Word) (n : Nat) : (beBytes v n).reverse = leBytes v n := by
  induction n with
  | zero => rfl
  | succ n ih => rw [beBytes_succ, List.reverse_cons, ih, leBytes_succ]

theorem beValue_append_singleton (bs : List Byte) (b : Byte) :
    beValue (bs ++ [b]) = beValue bs * 256 + b.toNat := by
  induction bs with
  | nil => simp
  | cons c bs ih =>
    rw [List.cons_append, beValue_cons, ih, beValue_cons, List.length_append, List.length_singleton, Nat.mul_succ,
      pow_add]
    ring

/-- The sum of R101, for any byte count. -/
theorem beValue_leBytes (v : Word) (n : Nat) :
    beValue (leBytes v n) = ∑ i ∈ Finset.range n, v.toNat / 256 ^ i % 256 * 256 ^ (n - 1 - i) := by
  induction n with
  | zero => rfl
  | succ n ih =>
    have hshift : ∀ i ∈ Finset.range n, v.toNat / 256 ^ i % 256 * 256 ^ (n - 1 - i) * 256 =
        v.toNat / 256 ^ i % 256 * 256 ^ (n + 1 - 1 - i) := by
      intro i hi
      have hlt : i < n := Finset.mem_range.mp hi
      rw [Nat.mul_assoc, ← pow_succ]
      congr 2
      omega
    rw [leBytes_succ, beValue_append_singleton, ih, Finset.sum_mul, Finset.sum_congr rfl hshift,
      Finset.sum_range_succ, byteOf_toNat, pow_mul]
    simp

/-- The low byte is the most significant one of the bytes in reverse. -/
theorem beValue_leBytes_ge_iff (v : Word) (n : Nat) :
    2 ^ (8 * n) ≤ beValue (leBytes v (n + 1)) ↔ byteOf v 0 ≠ 0 := by
  have htail := beValue_lt ((List.range n).map fun i => byteOf v (i + 1))
  rw [leBytes_succ_eq_cons, beValue_cons]
  rw [List.length_map, List.length_range] at htail ⊢
  rw [ne_eq, ← BitVec.toNat_inj]
  constructor
  · intro h hzero
    rw [hzero, BitVec.ofNat_eq_ofNat, BitVec.toNat_zero, Nat.zero_mul] at h
    omega
  · intro h
    exact (Nat.le_mul_of_pos_left _ (Nat.pos_of_ne_zero h)).trans (Nat.le_add_right _ _)

/-! ### `rev_min` (R101, R104) -/

theorem nbytes_revMin_le (v : Word) : nbytes (revMin v) ≤ nbytes v := by
  obtain ⟨hpos, -, -, -⟩ := nbytes_spec v
  rw [nbytes_le_iff hpos, revMin_toNat]
  simpa using beValue_lt (leBytes v (nbytes v))

/-- Converting reverses the value's own bytes. -/
theorem leBytes_revMin (v : Word) : leBytes (revMin v) (nbytes v) = beBytes v (nbytes v) := by
  rw [← reverse_beBytes, beBytes_revMin, ← reverse_beBytes, List.reverse_reverse]

/-- Only a loss of bytes, leading zeros of the converted value, keeps `rev_min` from undoing itself. -/
theorem revMin_revMin_eq_iff_nbytes (v : Word) : revMin (revMin v) = v ↔ nbytes (revMin v) = nbytes v := by
  obtain ⟨-, -, hlt, -⟩ := nbytes_spec v
  constructor
  · intro h
    refine le_antisymm (nbytes_revMin_le v) ?_
    calc nbytes v = nbytes (revMin (revMin v)) := by rw [h]
      _ ≤ nbytes (revMin v) := nbytes_revMin_le _
  · intro h
    apply BitVec.eq_of_toNat_eq
    rw [revMin_toNat, h, leBytes_revMin, beValue_beBytes, Nat.mod_eq_of_lt hlt]

/-- The converted value loses no byte exactly when the low byte, which becomes its leading one, is not 0. -/
theorem nbytes_revMin_eq_iff (v : Word) : nbytes (revMin v) = nbytes v ↔ v = 0 ∨ byteOf v 0 ≠ 0 := by
  obtain ⟨hpos, -, hlt, -⟩ := nbytes_spec v
  have hle := nbytes_revMin_le v
  obtain ⟨hpos', -, -, -⟩ := nbytes_spec (revMin v)
  obtain hone | hmany : nbytes v = 1 ∨ 1 ≤ nbytes v - 1 := by omega
  · have hbyte : v = 0 ∨ byteOf v 0 ≠ 0 := by
      have hself : (byteOf v 0).toNat = v.toNat := by
        rw [hone] at hlt
        rw [byteOf_toNat]
        omega
      by_cases hzero : byteOf v 0 = 0
      · rw [hzero] at hself
        exact .inl (BitVec.eq_of_toNat_eq hself.symm)
      · exact .inr hzero
    exact iff_of_true (by omega) hbyte
  · have hv : v ≠ 0 := by
      rintro rfl
      exact absurd hmany (by decide)
    calc nbytes (revMin v) = nbytes v
        ↔ ¬ nbytes (revMin v) ≤ nbytes v - 1 := by omega
      _ ↔ 2 ^ (8 * (nbytes v - 1)) ≤ beValue (leBytes v (nbytes v - 1 + 1)) := by
        rw [nbytes_le_iff hmany, not_lt, revMin_toNat, Nat.sub_add_cancel hpos]
      _ ↔ byteOf v 0 ≠ 0 := beValue_leBytes_ge_iff v _
      _ ↔ v = 0 ∨ byteOf v 0 ≠ 0 := (or_iff_right hv).symm

/-- Settles O35: `rev_min` undoes itself when the byte count is kept, which the low byte decides. -/
theorem revMinInvolutionDomain : Obligations.RevMinInvolutionDomain := by
  unfold Obligations.RevMinInvolutionDomain
  intro v
  exact (revMin_revMin_eq_iff_nbytes v).trans (nbytes_revMin_eq_iff v)

/-- Settles O18, with `nbytes` as the byte count. -/
theorem convReversesTheMinimalBytes : Obligations.ConvReversesTheMinimalBytes := by
  unfold Obligations.ConvReversesTheMinimalBytes
  intro s
  have hspec := nbytes_spec s.arg
  simp only [pow_mul] at hspec
  exact ⟨nbytes s.arg, revMin s.arg, hspec, (revMin_toNat _).trans (beValue_leBytes _ _), rfl⟩

/-! ### `swap16` (R100, R103, R105) -/

theorem swap16_toNat (r : Half) : (swap16 r).toNat = r.toNat % 256 * 256 + r.toNat / 256 := by
  have hr : r.toNat < 2 ^ 16 := r.isLt
  simp only [swap16, toNat_append_eq_add, BitVec.extractLsb'_toNat, Nat.shiftRight_eq_div_pow]
  omega

/-- A 16-bit value keeps its magnitude in a word. -/
theorem toNat_setWidth_half (r : Half) : (r.setWidth 32).toNat = r.toNat :=
  BitVec.toNat_setWidth_of_le (by decide)

theorem exec_swap16_of_le {s : State} (h : s.arg.toNat ≤ 0xFFFF) :
    exec .swap16 s = .next { s with res := (swap16 (s.arg.extractLsb' 0 16)).setWidth 32, err := 0 } := by
  rcases halfOperand_cases s.arg with ⟨-, ho⟩ | ⟨hgt, -⟩
  · simp only [exec, execSwap16, ho]
    rfl
  · omega

theorem exec_swap16_of_gt {s : State} (h : 0xFFFF < s.arg.toNat) : exec .swap16 s = .next { s with err := 1 } := by
  rcases halfOperand_cases s.arg with ⟨hle, -⟩ | ⟨-, ho⟩
  · omega
  · simp only [exec, execSwap16, ho]
    rfl

/-- Settles O19: a 16-bit operand is the whole of ARG. -/
theorem swap16ExchangesTwoBytes : Obligations.Swap16ExchangesTwoBytes := by
  unfold Obligations.Swap16ExchangesTwoBytes
  intro s
  refine ⟨fun h => ⟨_, ?_, exec_swap16_of_le h⟩, exec_swap16_of_gt⟩
  have harg : (s.arg.extractLsb' 0 16).toNat = s.arg.toNat := by
    rw [BitVec.extractLsb'_toNat, Nat.shiftRight_zero, Nat.mod_eq_of_lt (by omega)]
  rw [toNat_setWidth_half, swap16_toNat, harg]

/-- Settles O36, in arithmetic: the two bytes are the quotient and the remainder by 256. -/
theorem swap16IsAnInvolution : Obligations.Swap16IsAnInvolution := by
  unfold Obligations.Swap16IsAnInvolution
  intro r
  apply BitVec.eq_of_toNat_eq
  rw [swap16_toNat, swap16_toNat]
  omega

/-! ### Where the two conversions agree (R106) -/

theorem revMin_toNat_of_nbytes_two {v : Word} (h : nbytes v = 2) :
    (revMin v).toNat = v.toNat % 256 * 256 + v.toNat / 256 := by
  have hlt : v.toNat < 2 ^ (8 * 2) := (nbytes_le_iff (by decide)).mp h.le
  have hbytes : leBytes v 2 = [byteOf v 0, byteOf v 1] := rfl
  rw [revMin_toNat, h, hbytes]
  simp only [beValue_cons, beValue_nil, byteOf_toNat, List.length_cons, List.length_nil]
  omega

/-- A one-byte value is its own reversal. -/
theorem revMin_eq_self {v : Word} (h : v.toNat ≤ 0xFF) : revMin v = v := by
  have hn : nbytes v = 1 := by
    rcases nbytes_cases v with ⟨hn, -⟩ | h' | h' | h' <;> omega
  apply BitVec.eq_of_toNat_eq
  rw [revMin_toNat, hn, leBytes_succ, leBytes_zero, beValue_append_singleton, beValue_nil, byteOf_toNat]
  omega

theorem revMin_setWidth_eq_swap16 {r : Half} (h : 0x0100 ≤ r.toNat) :
    revMin (r.setWidth 32) = (swap16 r).setWidth 32 := by
  have hr : r.toNat < 2 ^ 16 := r.isLt
  have hv := toNat_setWidth_half r
  have hn : nbytes (r.setWidth 32) = 2 := by
    rcases nbytes_cases (r.setWidth 32) with h' | ⟨hn, -, -⟩ | h' | h' <;> omega
  apply BitVec.eq_of_toNat_eq
  rw [revMin_toNat_of_nbytes_two hn, hv, toNat_setWidth_half, swap16_toNat]

/-- For a one-byte value the exchange is a shift, as its high byte is 0. -/
theorem swap16_toNat_of_le {r : Half} (h : r.toNat ≤ 0xFF) : (swap16 r).toNat = r.toNat * 256 := by
  rw [swap16_toNat]
  omega

/-- Settles O37: two bytes from 0x0100 on, one byte below, which `swap16` moves and `rev_min` does not. -/
theorem conversionsAgreeFromTwoBytesOn : Obligations.ConversionsAgreeFromTwoBytesOn := by
  unfold Obligations.ConversionsAgreeFromTwoBytesOn
  refine ⟨fun r h => revMin_setWidth_eq_swap16 h, ⟨by decide, by decide⟩, fun r hlo hhi => ?_, by decide⟩
  have hrev : revMin (r.setWidth 32) = r.setWidth 32 := revMin_eq_self ((toNat_setWidth_half r).trans_le hhi)
  have hswap := swap16_toNat_of_le hhi
  refine ⟨hrev, ?_, fun heq => ?_⟩
  · apply BitVec.eq_of_toNat_eq
    rw [hswap, BitVec.toNat_shiftLeft, Nat.shiftLeft_eq, Nat.mod_eq_of_lt (by omega)]
  · rw [hrev] at heq
    have hval := congrArg BitVec.toNat heq
    rw [toNat_setWidth_half, toNat_setWidth_half] at hval
    omega

/-! ### The sum of the bytes (R107) -/

theorem byteSum_append (bs cs : List Byte) : byteSum (bs ++ cs) = byteSum bs + byteSum cs := by
  simp [byteSum]

theorem byteSum_reverse (bs : List Byte) : byteSum bs.reverse = byteSum bs := by
  simp [byteSum, List.sum_reverse]

/-- The bytes above those that hold the value are 0. -/
theorem byteOf_eq_zero {v : Word} {n i : Nat} (hv : v.toNat < 2 ^ (8 * n)) (hi : n ≤ i) : byteOf v i = 0 := by
  have hpow : 2 ^ (8 * n) ≤ 2 ^ (8 * i) := Nat.pow_le_pow_right (by decide) (by omega)
  apply BitVec.eq_of_toNat_eq
  rw [byteOf_toNat, Nat.div_eq_of_lt (hv.trans_le hpow)]
  rfl

theorem byteSum_leBytes_add {v : Word} {n : Nat} (hv : v.toNat < 2 ^ (8 * n)) (k : Nat) :
    byteSum (leBytes v (n + k)) = byteSum (leBytes v n) := by
  induction k with
  | zero => rfl
  | succ k ih =>
    rw [← Nat.add_assoc, leBytes_succ, byteSum_append, ih, byteOf_eq_zero hv (Nat.le_add_right n k)]
    rfl

/-- The sum of a word's four bytes is the sum of those that hold its value. -/
theorem byteSum_wordBytes {v : Word} {n : Nat} (hn : n ≤ 4) (hv : v.toNat < 2 ^ (8 * n)) :
    byteSum (wordBytes v) = byteSum (leBytes v n) := by
  rw [← byteSum_leBytes_add hv (4 - n), Nat.add_sub_cancel' hn]
  rfl

theorem byteSum_wordBytes_revMin (v : Word) : byteSum (wordBytes (revMin v)) = byteSum (wordBytes v) := by
  obtain ⟨hpos, hle, hlt, -⟩ := nbytes_spec v
  have hrev : (revMin v).toNat < 2 ^ (8 * nbytes v) := (nbytes_le_iff hpos).mp (nbytes_revMin_le v)
  calc byteSum (wordBytes (revMin v))
      = byteSum (leBytes (revMin v) (nbytes v)) := byteSum_wordBytes hle hrev
    _ = byteSum (beBytes v (nbytes v)) := by rw [leBytes_revMin]
    _ = byteSum (leBytes v (nbytes v)) := by rw [← reverse_beBytes, byteSum_reverse]
    _ = byteSum (wordBytes v) := (byteSum_wordBytes hle hlt).symm

theorem byteSum_wordBytes_setWidth (r : Half) :
    byteSum (wordBytes (r.setWidth 32)) = r.toNat % 256 + r.toNat / 256 := by
  have hr : r.toNat < 2 ^ 16 := r.isLt
  have hv := toNat_setWidth_half r
  have hbytes : leBytes (r.setWidth 32) 2 = [byteOf (r.setWidth 32) 0, byteOf (r.setWidth 32) 1] := rfl
  rw [byteSum_wordBytes (n := 2) (by decide) (by omega), hbytes]
  simp only [byteSum, List.map_cons, List.map_nil, List.sum_cons, List.sum_nil, byteOf_toNat, hv]
  omega

/-- Settles O38: both conversions only reorder the bytes that hold the value. -/
theorem conversionsKeepTheByteSum : Obligations.ConversionsKeepTheByteSum := by
  unfold Obligations.ConversionsKeepTheByteSum
  refine ⟨byteSum_wordBytes_revMin, fun r => ?_⟩
  rw [byteSum_wordBytes_setWidth, byteSum_wordBytes_setWidth, swap16_toNat]
  omega

end Sys2Proof.Machine
end


section
/-! PROOFS of the statements of spec/41_checksum.md: the checksum function (R120, R121, R128), the three streaming
operations on ACC (R123 to R125), and that ENCODE and DECODE leave ACC alone (R126). -/

namespace Sys2Proof.Machine

/-! ### The checksum function (R121, R127, R128) -/

/-- Subtraction of bytes wraps: it is the residue mod 256 of the integers' difference (R127). -/
theorem toNat_byte_sub (a b : Byte) : ((a - b).toNat : Int) = ((a.toNat : Int) - (b.toNat : Int)) % 256 := by
  have hb : b.toNat < 2 ^ 8 := b.isLt
  rw [BitVec.toNat_sub]
  omega

/-- Adding up in 8 bits is adding up the numbers and reducing once, at the end. -/
theorem toNat_sum_eq_byteSum_mod (bs : List Byte) : bs.sum.toNat = Safety.byteSum bs % 256 := by
  induction bs with
  | nil => rfl
  | cons b bs ih =>
    have hcons : Safety.byteSum (b :: bs) = b.toNat + Safety.byteSum bs := rfl
    rw [List.sum_cons, BitVec.toNat_add, ih, hcons, Nat.add_mod_mod]

/-- Settles O39: the checksum is the seed less the sum in 8 bits, and each of the two wraps mod 256. -/
theorem checksumClosedForm : Obligations.ChecksumClosedForm := by
  unfold Obligations.ChecksumClosedForm
  intro bs
  calc ((checksum bs).toNat : Int)
      = (0x55 - (bs.sum.toNat : Int)) % 256 := by rw [checksum_eq_sub_sum, toNat_byte_sub]; rfl
    _ = (0x55 - (Safety.byteSum bs : Int) % 256) % 256 := by rw [toNat_sum_eq_byteSum_mod]; rfl
    _ = (0x55 - (Safety.byteSum bs : Int)) % 256 := Int.sub_emod_emod _ _ _

/-- All that the checksum sees of a byte sequence is its sum in 8 bits. -/
theorem checksum_eq_iff {as bs : List Byte} : checksum as = checksum bs ↔ as.sum = bs.sum := by
  rw [checksum_eq_sub_sum, checksum_eq_sub_sum, sub_right_inj]

/-- Settles O40: which changes of a byte sequence keep its sum in 8 bits. -/
theorem checksumDetection : Obligations.ChecksumDetection := by
  unfold Obligations.ChecksumDetection
  refine ⟨fun as bs b c hne heq => hne ?_, fun as bs hperm => ?_, fun as bs => ?_, fun as bs cs b b' c c' hcancel => ?_⟩
  · simpa [checksum_eq_iff] using heq
  · exact checksum_eq_iff.mpr hperm.sum_eq
  · simp [checksum_eq_iff]
  · rw [checksum_eq_iff]
    simp only [List.sum_append, List.sum_cons]
    linear_combination -hcancel

/-! ### The streaming operations (R123, R124, R125) -/

/-- Settles O20: the seed is 0x55. -/
theorem csinitSeedsTheAccumulator : Obligations.CsinitSeedsTheAccumulator := by
  unfold Obligations.CsinitSeedsTheAccumulator
  intro s
  calc exec .csinit s
      = commit (fun s => s.setAcc Config.csumSeed) s := rfl
    _ = .next { s with acc := 0x55, err := 0 } := commit_eq_next.mpr rfl

theorem exec_csbyte_of_le {s : State} (h : s.arg.toNat ≤ 0xFF) :
    exec .csbyte s = .next { s with acc := s.acc - byteOf s.arg 0, err := 0 } := by
  rcases byteOperand_cases s.arg with ⟨-, ho⟩ | ⟨hgt, -⟩
  · simp only [exec, execCsbyte, ho]
    rfl
  · omega

theorem exec_csbyte_of_gt {s : State} (h : 0xFF < s.arg.toNat) : exec .csbyte s = .next { s with err := 1 } := by
  rcases byteOperand_cases s.arg with ⟨hle, -⟩ | ⟨-, ho⟩
  · omega
  · simp only [exec, execCsbyte, ho]
    rfl

theorem exec_csverify_of_le {s : State} (h : s.arg.toNat ≤ 0xFF) :
    exec .csverify s = .next { s with res := if s.acc = byteOf s.arg 0 then 1 else 0, err := 0 } := by
  rcases byteOperand_cases s.arg with ⟨-, ho⟩ | ⟨hgt, -⟩
  · simp only [exec, execCsverify, ho]
    rfl
  · omega

theorem exec_csverify_of_gt {s : State} (h : 0xFF < s.arg.toNat) : exec .csverify s = .next { s with err := 1 } := by
  rcases byteOperand_cases s.arg with ⟨hle, -⟩ | ⟨-, ho⟩
  · omega
  · simp only [exec, execCsverify, ho]
    rfl

/-- A byte operand in range is the whole register. -/
theorem toNat_byteOf_zero {v : Word} (h : v.toNat ≤ 0xFF) : (byteOf v 0).toNat = v.toNat := by
  rw [byteOf_toNat]
  omega

/-- Settles O21: in range, the byte that CSBYTE subtracts is the whole of ARG. -/
theorem csbyteSubtractsTheByte : Obligations.CsbyteSubtractsTheByte := by
  unfold Obligations.CsbyteSubtractsTheByte
  intro s
  refine ⟨fun h => ⟨s.acc - byteOf s.arg 0, ?_, exec_csbyte_of_le h⟩, exec_csbyte_of_gt⟩
  rw [toNat_byte_sub, toNat_byteOf_zero h]

/-- Settles O22: in range, ACC is compared with the whole of ARG. -/
theorem csverifyComparesTheAccumulator : Obligations.CsverifyComparesTheAccumulator := by
  unfold Obligations.CsverifyComparesTheAccumulator
  intro s
  refine ⟨fun h => ?_, exec_csverify_of_gt⟩
  have hiff : s.acc = byteOf s.arg 0 ↔ s.acc.toNat = s.arg.toNat := by
    rw [← BitVec.toNat_inj, toNat_byteOf_zero h]
  simp only [exec_csverify_of_le h, hiff]

/-- Settles O41: CSBYTE takes the checksum's own step. -/
theorem csbyteExtendsTheChecksum : Obligations.CsbyteExtendsTheChecksum := by
  unfold Obligations.CsbyteExtendsTheChecksum
  intro s bs hacc harg
  refine ⟨_, exec_csbyte_of_le harg, rfl, ?_⟩
  calc s.acc - byteOf s.arg 0
      = checksum bs - byteOf s.arg 0 := by rw [hacc]
    _ = checksum (bs ++ [byteOf s.arg 0]) := (checksum_append_singleton bs _).symm

/-! ### ENCODE and DECODE beside a checksum being streamed (R126) -/

/-- `s` with the accumulator `a`. -/
def State.withAcc (a : Byte) (s : State) : State := { s with acc := a }

theorem State.withAcc_setErr (a : Byte) (s : State) (e : ErrCode) :
    (s.withAcc a).setErr e = (s.setErr e).withAcc a := rfl

@[simp] theorem State.withAcc_fcmd (a : Byte) (s : State) : (s.withAcc a).fcmd = s.fcmd := rfl
@[simp] theorem State.withAcc_freg (a : Byte) (s : State) : (s.withAcc a).freg = s.freg := rfl
@[simp] theorem State.withAcc_llen (a : Byte) (s : State) : (s.withAcc a).llen = s.llen := rfl
@[simp] theorem State.withAcc_line (a : Byte) (s : State) : (s.withAcc a).line = s.line := rfl

theorem execEncode_withAcc {s t : State} (a : Byte) (h : execEncode s = .next t) :
    execEncode (s.withAcc a) = .next (t.withAcc a) := by
  simp only [execEncode, State.withAcc_fcmd, State.withAcc_freg] at h ⊢
  split at h
  · exact commit_replace (State.withAcc_setErr a) rfl h
  · exact raise_replace (State.withAcc_setErr a) h

theorem execDecode_withAcc {s t : State} (a : Byte) (h : execDecode s = .next t) :
    execDecode (s.withAcc a) = .next (t.withAcc a) := by
  simp only [execDecode, State.withAcc_llen, State.withAcc_line] at h ⊢
  split at h
  · exact raise_replace (State.withAcc_setErr a) h
  · exact raise_replace (State.withAcc_setErr a) h
  · exact commit_replace (State.withAcc_setErr a) rfl h

/-- Settles O50: ENCODE and DECODE commute with a change of ACC. -/
theorem frameOperationsIgnoreAcc : Obligations.FrameOperationsIgnoreAcc := by
  unfold Obligations.FrameOperationsIgnoreAcc
  intro i s t a hi h
  rcases hi with rfl | rfl
  · exact execEncode_withAcc a h
  · exact execDecode_withAcc a h

end Sys2Proof.Machine
end

section
/-! PROOFS of the statements of spec/42_frame_encoder.md: the line that ENCODE builds (R140 to R145) and what it depends
on (R146). -/

namespace Sys2Proof.Machine

open Sys2Proof.Safety

/-! ### The operands of ENCODE (R140, R141, R144) -/

theorem payloadOperand_of_absent {s : State} (h : s.present = 0) : payloadOperand s = none := by
  simp [payloadOperand, h]

theorem payloadOperand_of_present {s : State} (h : s.present = 1) : payloadOperand s = some s.fpay :=
  if_pos h

theorem payloadOperand_congr {s s' : State} (hpresent : s.present = s'.present)
    (hfpay : s.present = 1 → s.fpay = s'.fpay) : payloadOperand s = payloadOperand s' := by
  rcases payloadOperand_cases s with ⟨h, hs⟩ | ⟨h, hs⟩
  · rw [hs, payloadOperand_of_absent (hpresent ▸ h)]
  · rw [hs, payloadOperand_of_present (hpresent ▸ h), hfpay h]

/-- The register goes out low byte first: the high byte of `swap16` is the register's low byte, and the other way
round. -/
theorem headerBytes_extractLsb' (c : Byte) (v : Word) :
    headerBytes c (v.extractLsb' 0 16) = [c, byteOf v 0, byteOf v 1] := by
  have hlow : (v.extractLsb' 0 16).extractLsb' 0 8 = byteOf v 0 := extractLsb'_extractLsb'_of_add_le v (by decide)
  have hhigh : (v.extractLsb' 0 16).extractLsb' 8 8 = byteOf v 1 := extractLsb'_extractLsb'_of_add_le v (by decide)
  rw [headerBytes, swap16, hlow, hhigh, BitVec.extractLsb'_append_eq_left, BitVec.extractLsb'_append_eq_right]

/-- What `encode_fn` answers for the operands that `s` holds. -/
def encodedLine (s : State) : EncodedLine :=
  encodeFn (byteOf s.fcmd 0) (s.freg.extractLsb' 0 16) (payloadOperand s)

/-- ENCODE reads FPAY only when PRESENT = 1, and no other register than these (R144). -/
theorem encodedLine_congr {s s' : State} (hfcmd : s.fcmd = s'.fcmd) (hfreg : s.freg = s'.freg)
    (hpresent : s.present = s'.present) (hfpay : s.present = 1 → s.fpay = s'.fpay) :
    encodedLine s = encodedLine s' := by
  rw [encodedLine, encodedLine, hfcmd, hfreg, payloadOperand_congr hpresent hfpay]

/-! ### What ENCODE answers (R144, R145) -/

theorem exec_encode_of_le {s : State} (hfcmd : s.fcmd.toNat ≤ 0xFF) (hfreg : s.freg.toNat ≤ 0xFFFF) :
    exec .encode s = .next ((s.storeEncoded (encodedLine s)).setErr .ok) := by
  rcases byteOperand_cases s.fcmd with ⟨-, hc⟩ | ⟨hgt, -⟩
  · rcases halfOperand_cases s.freg with ⟨-, hr⟩ | ⟨hgt, -⟩
    · simp only [exec, execEncode, hc, hr]
      rfl
    · omega
  · omega

theorem exec_encode_of_gt {s : State} (h : 0xFF < s.fcmd.toNat ∨ 0xFFFF < s.freg.toNat) :
    exec .encode s = .next (s.setErr .formatError) := by
  rcases byteOperand_cases s.fcmd with ⟨hle, hc⟩ | ⟨-, hc⟩
  · rcases halfOperand_cases s.freg with ⟨hle', -⟩ | ⟨-, hr⟩
    · omega
    · simp only [exec, execEncode, hc, hr]
      rfl
  · simp only [exec, execEncode, hc]
    rfl

/-- ENCODE's writes in terms of the wire bytes: `storeEncoded` stores the text that spells them (R147). -/
theorem storeEncoded_encodeFn (s : State) (c : Byte) (r : Half) (p : Option Word) :
    (s.storeEncoded (encodeFn c r p)).setErr .ok = { s with
      line := Vector.ofFn fun i => ((textOf (wireBody c r p ++ [checksum (wireBody c r p)]))[i.val]?).getD 0x00,
      llen := BitVec.ofNat 32 (9 + 2 * (payloadField p).2),
      fcsum := checksum (wireBody c r p),
      width := BitVec.ofNat 3 (payloadField p).2,
      err := 0 } := by
  rw [← encodeFn_text, ← encodeFn_checksum, ← encodeFn_width, ← encodeFn_text_length]
  rfl

/-- Settles O23: w and k are the payload field of R141, and the body is the encoder's wire bytes before the checksum. -/
theorem encodeBuildsTheLine : Obligations.EncodeBuildsTheLine := by
  unfold Obligations.EncodeBuildsTheLine
  refine fun s => ⟨fun hfcmd hfreg => ?_, exec_encode_of_gt⟩
  refine ⟨(payloadField (payloadOperand s)).1, (payloadField (payloadOperand s)).2,
    wireBody (byteOf s.fcmd 0) (s.freg.extractLsb' 0 16) (payloadOperand s), _, ?absent, ?present, ?body, rfl, ?result⟩
  case absent =>
    intro h
    rw [payloadOperand_of_absent h]
    rfl
  case present =>
    intro h
    rw [payloadOperand_of_present h]
    exact ⟨rfl, rfl⟩
  case body => rw [wireBody, headerBytes_extractLsb']
  case result => rw [exec_encode_of_le hfcmd hfreg, encodedLine, storeEncoded_encodeFn]

/-! ### What ENCODE depends on (R146) -/

/-- Settles O24: the range check and the encoded line are functions of the operands that R144 names. -/
theorem encodeIsDeterminedByItsOperands : Obligations.EncodeIsDeterminedByItsOperands := by
  unfold Obligations.EncodeIsDeterminedByItsOperands
  constructor
  · intro s s' t t' hfcmd hfreg hpresent hfpay h h'
    rcases execEncode_next h with ⟨hc, hr, -⟩ | ⟨hrange, -⟩
    · rw [exec_encode_of_le hc hr] at h
      rw [exec_encode_of_le (hfcmd ▸ hc) (hfreg ▸ hr), ← encodedLine_congr hfcmd hfreg hpresent hfpay] at h'
      cases h
      cases h'
      simp
    · rw [exec_encode_of_gt hrange] at h
      rw [exec_encode_of_gt (hfcmd ▸ hfreg ▸ hrange)] at h'
      cases h
      cases h'
      simp
  · intro s hfcmd hfreg
    exact ⟨_, exec_encode_of_le hfcmd hfreg, rfl⟩

end Sys2Proof.Machine
end

section
/-! PROOFS of the statements of spec/43_frame_decoder.md: which lines DECODE takes for a frame (R160 to R163), what it
answers (R164, R167, R168), what it depends on (R160), and that every single change of a line is noticed (R172); then
ENCODE and DECODE one after the other (R170, R171). -/

namespace Sys2Proof.Machine

open Sys2Proof.Safety

/-! ### Hex digits and the wire bytes read from a line (R78, R163) -/

theorem isHexDigit_iff (c : Byte) :
    isHexDigit c = true ↔ (0x30 ≤ c.toNat ∧ c.toNat ≤ 0x39) ∨ (0x41 ≤ c.toNat ∧ c.toNat ≤ 0x46) := by
  unfold isHexDigit hexval
  split
  · next h => exact iff_of_true rfl (.inl h)
  · next hdec =>
    split
    · next h => exact iff_of_true rfl (.inr h)
    · next hupper => simp [hdec, hupper]

@[simp] theorem isHexDigit_hexchar (n : Nibble) : isHexDigit (hexchar n) = true := by
  simp [isHexDigit]

theorem hexchar_digitOf {c : Byte} (h : isHexDigit c = true) : hexchar (digitOf c) = c := by
  obtain ⟨n, hn⟩ := Option.isSome_iff_exists.mp h
  rw [hexval_eq_some hn, digitOf_hexchar]

/-- A byte made of two digits is spelled by them. -/
theorem hexPair_sixteen_mul_add (high low : Nibble) :
    hexPair (16 * high.setWidth 8 + low.setWidth 8) = [hexchar high, hexchar low] := by
  revert high low
  decide +kernel

/-- LINE has no entry from 17 on, and reads as 0x00 there. -/
theorem charAt_eq_zero (chars : Vector Byte Config.lineCap) {i : Nat} (hi : ¬ i < Config.lineCap) :
    charAt chars i = 0 := by
  simp [charAt, Vector.getD, hi]

section
variable {chars chars' : Vector Byte Config.lineCap}

/-- A wire byte is spelled by the two characters it was read from. -/
theorem hexPair_wireByte {j : Nat} (hhigh : isHexDigit (charAt chars (1 + 2 * j)) = true)
    (hlow : isHexDigit (charAt chars (2 + 2 * j)) = true) :
    hexPair (wireByte chars j) = [charAt chars (1 + 2 * j), charAt chars (2 + 2 * j)] := by
  rw [wireByte, hexPair_sixteen_mul_add, hexchar_digitOf hhigh, hexchar_digitOf hlow]

theorem wireByte_congr {j : Nat} (hhigh : charAt chars (1 + 2 * j) = charAt chars' (1 + 2 * j))
    (hlow : charAt chars (2 + 2 * j) = charAt chars' (2 + 2 * j)) : wireByte chars j = wireByte chars' j := by
  rw [wireByte, wireByte, hhigh, hlow]

@[simp] theorem wireBytes_length (a n : Nat) : (wireBytes chars a n).length = n := by
  simp [wireBytes]

theorem wireBytes_succ (a n : Nat) : wireBytes chars a (n + 1) = wireBytes chars a n ++ [wireByte chars (a + n)] := by
  simp [wireBytes, List.range'_1_concat]

theorem wireBytes_succ_eq_cons (a n : Nat) :
    wireBytes chars a (n + 1) = wireByte chars a :: wireBytes chars (a + 1) n := by
  simp [wireBytes, List.range'_succ]

theorem wireBytes_add (a m n : Nat) :
    wireBytes chars a (m + n) = wireBytes chars a m ++ wireBytes chars (a + m) n := by
  simp [wireBytes, ← List.range'_append_1]

theorem wireBytes_congr {a n : Nat} (h : ∀ j, a ≤ j → j < a + n → wireByte chars j = wireByte chars' j) :
    wireBytes chars a n = wireBytes chars' a n :=
  List.map_congr_left fun j hj => by
    rw [List.mem_range'_1] at hj
    exact h j hj.1 hj.2

/-- The layouts of R76: three header bytes, the payload field and the checksum byte. -/
theorem wireBytes_layout (k : Nat) :
    wireBytes chars 0 (k + 4) = wireByte chars 0 :: wireByte chars 1 :: wireByte chars 2 ::
      (wireBytes chars 3 k ++ [wireByte chars (k + 3)]) := by
  rw [wireBytes_succ_eq_cons, wireBytes_succ_eq_cons, wireBytes_succ_eq_cons, wireBytes_succ, Nat.add_comm k 3]

/-- The checksum notices a change of one wire byte. -/
theorem checksum_wireBytes_ne {j n : Nat} (hj : j < n) (hne : wireByte chars j ≠ wireByte chars' j)
    (heq : ∀ i, i ≠ j → wireByte chars i = wireByte chars' i) :
    checksum (wireBytes chars 0 n) ≠ checksum (wireBytes chars' 0 n) := by
  obtain ⟨m, rfl⟩ : ∃ m, n = j + (m + 1) := ⟨n - j - 1, by omega⟩
  obtain ⟨detects, -⟩ := checksumDetection
  have hbefore : wireBytes chars 0 j = wireBytes chars' 0 j :=
    wireBytes_congr fun i _ hi => heq i (by omega)
  have hafter : wireBytes chars (0 + j + 1) m = wireBytes chars' (0 + j + 1) m :=
    wireBytes_congr fun i hi _ => heq i (by omega)
  rw [wireBytes_add 0 j (m + 1), wireBytes_add 0 j (m + 1), wireBytes_succ_eq_cons (0 + j) m,
    wireBytes_succ_eq_cons (0 + j) m, hbefore, hafter]
  exact detects _ _ _ _ (by simpa using hne)

end

/-! ### The form of a line (R161 to R163) -/

/-- LINE and LLEN have passed the first three steps of decode_fn, with a payload field of k bytes. -/
structure WellFormedLine (s : State) (k : Nat) : Prop where
  payload : PayloadBytes k
  length : s.llen.toNat = 9 + 2 * k
  start : charAt s.line 0 = colon
  digits : ∀ i, 1 ≤ i → i < s.llen.toNat → isHexDigit (charAt s.line i) = true

theorem mem_validLlen_iff {n : Nat} : n ∈ Config.validLlen ↔ ∃ k, PayloadBytes k ∧ n = 9 + 2 * k := by
  simp only [Config.validLlen, List.mem_cons, List.not_mem_nil, or_false, PayloadBytes]
  constructor
  · intro h
    exact ⟨(n - 9) / 2, by omega, by omega⟩
  · rintro ⟨k, hk, rfl⟩
    omega

theorem payloadBytes_le_four {k : Nat} (h : PayloadBytes k) : k ≤ 4 := by
  rcases h with rfl | rfl | rfl | rfl <;> decide

/-! ### What DECODE answers (R160, R168) -/

/-- A line carries the checksum of the bytes before it exactly when the checksum of all its bytes is 0. -/
theorem checksum_append_eq_zero_iff {bs : List Byte} {x : Byte} : checksum (bs ++ [x]) = 0 ↔ checksum bs = x := by
  rw [checksum_append_singleton, sub_eq_zero]

theorem checksum_layout_eq_zero_iff {c d1 d2 x : Byte} {ps : List Byte} :
    checksum (c :: d1 :: d2 :: (ps ++ [x])) = 0 ↔ checksum (c :: d1 :: d2 :: ps) = x :=
  checksum_append_eq_zero_iff (bs := c :: d1 :: d2 :: ps)

theorem decodeFn_of_not_wellFormed {s : State} (h : ∀ k, ¬ WellFormedLine s k) :
    decodeFn s.llen s.line = .format := by
  rcases decodeFn_cases s.llen s.line with ⟨hd, -⟩ | ⟨hlen, hstart, hdigits, -⟩
  · exact hd
  · obtain ⟨k, hk, hlen⟩ := mem_validLlen_iff.mp hlen
    exact absurd ⟨hk, hlen, hstart, hdigits⟩ (h k)

/-- On a well-formed line decode_fn goes on to step 5, and the checksum of all the wire bytes decides. -/
theorem WellFormedLine.decodeFn_eq {s : State} {k : Nat} (h : WellFormedLine s k) :
    decodeFn s.llen s.line =
      if checksum (wireBytes s.line 0 (k + 4)) = 0 then .ok (frameOf s.line k) else .checksum := by
  have hbefore : (s.llen.toNat - 1) / 2 - 1 = k + 3 := by rw [h.length]; omega
  have hwidth : (s.llen.toNat - 1) / 2 - 4 = k := by rw [h.length]; omega
  have hsum : checksum (wireBytes s.line 0 (k + 4)) = 0 ↔
      checksum (wireBytes s.line 0 (k + 3)) = (frameOf s.line k).checksum := by
    rw [wireBytes_succ, checksum_append_eq_zero_iff, Nat.zero_add]
    rfl
  rcases decodeFn_cases s.llen s.line with ⟨-, hlen | hstart | ⟨i, hi, hlt, hdigit⟩⟩ | ⟨-, -, -, hstep5⟩
  · exact absurd (mem_validLlen_iff.mpr ⟨k, h.payload, h.length⟩) hlen
  · exact absurd h.start hstart
  · exact absurd (h.digits i hi hlt) (by simp [hdigit])
  · rw [hbefore, hwidth, ne_eq, ← hsum] at hstep5
    rcases hstep5 with ⟨hd, hne⟩ | ⟨hd, heq⟩
    · rw [hd, if_neg hne]
    · rw [hd, if_pos heq]

theorem exec_decode_of_not_wellFormed {s : State} (h : ∀ k, ¬ WellFormedLine s k) :
    exec .decode s = .next (s.setErr .formatError) := by
  simp only [exec, execDecode, decodeFn_of_not_wellFormed h, raise]

theorem WellFormedLine.exec_decode_of_checksum_eq {s : State} {k : Nat} (h : WellFormedLine s k)
    (hsum : checksum (wireBytes s.line 0 (k + 4)) = 0) :
    exec .decode s = .next ((s.storeFrame (frameOf s.line k)).setErr .ok) := by
  simp only [exec, execDecode, h.decodeFn_eq, if_pos hsum, commit]

theorem WellFormedLine.exec_decode_of_checksum_ne {s : State} {k : Nat} (h : WellFormedLine s k)
    (hsum : checksum (wireBytes s.line 0 (k + 4)) ≠ 0) :
    exec .decode s = .next (s.setErr .checksumError) := by
  simp only [exec, execDecode, h.decodeFn_eq, if_neg hsum, raise]

/-- What a line that DECODE accepts has passed, and what DECODE then stores. -/
theorem exec_decode_ok {s t : State} (h : exec .decode s = .next t) (herr : t.err = 0) :
    ∃ k, WellFormedLine s k ∧ checksum (wireBytes s.line 0 (k + 4)) = 0 ∧
      t = (s.storeFrame (frameOf s.line k)).setErr .ok := by
  by_cases hform : ∃ k, WellFormedLine s k
  · obtain ⟨k, hk⟩ := hform
    by_cases hsum : checksum (wireBytes s.line 0 (k + 4)) = 0
    · rw [hk.exec_decode_of_checksum_eq hsum] at h
      cases h
      exact ⟨k, hk, hsum, rfl⟩
    · rw [hk.exec_decode_of_checksum_ne hsum] at h
      cases h
      exact absurd herr (by simp)
  · rw [exec_decode_of_not_wellFormed (not_exists.mp hform)] at h
    cases h
    exact absurd herr (by simp)

/-- Settles O27: each of the three conditions is the negation of one step's test. -/
theorem decodeRejectsMalformedLines : Obligations.DecodeRejectsMalformedLines := by
  unfold Obligations.DecodeRejectsMalformedLines
  intro s h
  apply exec_decode_of_not_wellFormed
  intro k hk
  rcases h with hlen | hstart | ⟨i, hi, hlt, hdec, hupper⟩
  · have hpayload := hk.payload
    have hlength := hk.length
    simp only [PayloadBytes] at hpayload
    omega
  · exact hstart ((charAt_eq_getElem _ (by decide)).symm.trans hk.start)
  · have hdigit := hk.digits i hi hlt
    rw [charAt_eq_getElem _ i.isLt, isHexDigit_iff] at hdigit
    exact hdigit.elim hdec hupper

/-! ### What DECODE depends on (R160) -/

/-- The two states hold the same line: what they have past LLEN may differ. -/
structure SameLine (s s' : State) : Prop where
  llen : s.llen = s'.llen
  chars : ∀ i, i < s.llen.toNat → charAt s.line i = charAt s'.line i

section
variable {s s' : State} {k : Nat}

theorem WellFormedLine.congr (h : WellFormedLine s k) (hsame : SameLine s s') : WellFormedLine s' k where
  payload := h.payload
  length := hsame.llen ▸ h.length
  start := by rw [← hsame.chars 0 (by rw [h.length]; omega), h.start]
  digits i hi hlt := by
    rw [← hsame.llen] at hlt
    rw [← hsame.chars i hlt]
    exact h.digits i hi hlt

theorem SameLine.symm (h : SameLine s s') : SameLine s' s where
  llen := h.llen.symm
  chars i hi := (h.chars i (h.llen ▸ hi)).symm

/-- The characters of the wire bytes stand below LLEN. -/
theorem WellFormedLine.wireByte_eq (h : WellFormedLine s k) (hsame : SameLine s s') {j : Nat} (hj : j < k + 4) :
    wireByte s.line j = wireByte s'.line j := by
  have hlength := h.length
  exact wireByte_congr (hsame.chars _ (by omega)) (hsame.chars _ (by omega))

theorem WellFormedLine.wireBytes_eq (h : WellFormedLine s k) (hsame : SameLine s s') {a n : Nat}
    (hn : a + n ≤ k + 4) : wireBytes s.line a n = wireBytes s'.line a n :=
  wireBytes_congr fun _ _ hj => h.wireByte_eq hsame (by omega)

theorem WellFormedLine.frameOf_eq (h : WellFormedLine s k) (hsame : SameLine s s') :
    frameOf s.line k = frameOf s'.line k := by
  simp only [frameOf, h.wireByte_eq hsame (show 0 < k + 4 by omega), h.wireByte_eq hsame (show 1 < k + 4 by omega),
    h.wireByte_eq hsame (show 2 < k + 4 by omega), h.wireByte_eq hsame (show k + 3 < k + 4 by omega),
    h.wireBytes_eq hsame (show 3 + k ≤ k + 4 by omega)]

end

/-- The tests, the checksum and the frame are made of characters below LLEN. -/
theorem SameLine.decodeFn_eq {s s' : State} (h : SameLine s s') :
    decodeFn s.llen s.line = decodeFn s'.llen s'.line := by
  by_cases hform : ∃ k, WellFormedLine s k
  · obtain ⟨k, hk⟩ := hform
    have hbytes : wireBytes s.line 0 (k + 4) = wireBytes s'.line 0 (k + 4) := hk.wireBytes_eq h (by omega)
    rw [hk.decodeFn_eq, (hk.congr h).decodeFn_eq, hbytes, hk.frameOf_eq h]
  · have hform' : ∀ k, ¬ WellFormedLine s' k := fun k hk => hform ⟨k, hk.congr h.symm⟩
    rw [decodeFn_of_not_wellFormed (not_exists.mp hform), decodeFn_of_not_wellFormed hform']

theorem sameLine_of_getElem {s s' : State} (hllen : s.llen = s'.llen)
    (hline : ∀ i : Fin Config.lineCap, i.val < s.llen.toNat → s.line[i] = s'.line[i]) : SameLine s s' where
  llen := hllen
  chars i hi := by
    by_cases hcap : i < Config.lineCap
    · rw [charAt_eq_getElem _ hcap, charAt_eq_getElem _ hcap]
      exact hline ⟨i, hcap⟩ hi
    · rw [charAt_eq_zero _ hcap, charAt_eq_zero _ hcap]

/-- Settles O29: decode_fn gives both lines the same answer, which is all that DECODE writes. -/
theorem decodeReadsOnlyTheLine : Obligations.DecodeReadsOnlyTheLine := by
  unfold Obligations.DecodeReadsOnlyTheLine
  intro s s' t t' hllen hline h h'
  simp only [exec, execDecode, ← (sameLine_of_getElem hllen hline).decodeFn_eq] at h'
  rcases execDecode_next h with ⟨hd, rfl⟩ | ⟨hd, rfl⟩ | ⟨f, hd, rfl⟩ <;> rw [hd] at h'
  · obtain rfl := raise_eq_next.mp h'
    simp
  · obtain rfl := raise_eq_next.mp h'
    simp
  · obtain rfl := commit_eq_next.mp h'
    simp

/-! ### The text of a line and its wire bytes (R53, R78) -/

theorem textOf_append_singleton (bs : List Byte) (b : Byte) : textOf (bs ++ [b]) = textOf bs ++ hexPair b := by
  simp [textOf]

theorem textOf_length (bs : List Byte) : (textOf bs).length = 1 + 2 * bs.length := by
  induction bs with
  | nil => rfl
  | cons b bs ih =>
    have hcons : (textOf (b :: bs)).length = (textOf bs).length + 2 := rfl
    rw [hcons, ih, List.length_cons]
    omega

theorem isHexDigit_of_textOf_getElem? {bs : List Byte} {i : Nat} {c : Byte} (hi : 1 ≤ i)
    (h : (textOf bs)[i]? = some c) : isHexDigit c = true := by
  obtain ⟨i, rfl⟩ := Nat.exists_eq_add_of_le' hi
  have hget : (bs.flatMap hexPair)[i]? = some c := h
  obtain ⟨b, -, hc⟩ := List.mem_flatMap.mp (List.mem_of_getElem? hget)
  have hpair : c = hexchar (b.extractLsb' 4 4) ∨ c = hexchar (b.extractLsb' 0 4) := by simpa [hexPair] using hc
  rcases hpair with rfl | rfl <;> exact isHexDigit_hexchar _

theorem take_toList_succ (chars : Vector Byte Config.lineCap) {n : Nat} (hn : n < Config.lineCap) :
    chars.toList.take (n + 1) = chars.toList.take n ++ [charAt chars n] := by
  rw [List.take_succ_eq_append_getElem (by simpa using hn), charAt_eq_getElem _ hn]
  simp

/-- A line that starts with ':' and goes on with hex digits is the text of the wire bytes read from it. -/
theorem take_toList_eq_textOf {chars : Vector Byte Config.lineCap} (hstart : charAt chars 0 = colon) {n : Nat}
    (hn : n ≤ 8) (hdigits : ∀ i, 1 ≤ i → i < 1 + 2 * n → isHexDigit (charAt chars i) = true) :
    chars.toList.take (1 + 2 * n) = textOf (wireBytes chars 0 n) := by
  induction n with
  | zero => rw [take_toList_succ chars (by decide), hstart]; rfl
  | succ n ih =>
    have hpair :=
      hexPair_wireByte (hdigits (1 + 2 * n) (by omega) (by omega)) (hdigits (2 + 2 * n) (by omega) (by omega))
    have hsucc : 1 + 2 * (n + 1) = 1 + 2 * n + 1 + 1 := by omega
    rw [hsucc, take_toList_succ _ (by simp only [Config.lineCap]; omega),
      take_toList_succ _ (by simp only [Config.lineCap]; omega),
      ih (by omega) fun i hi hlt => hdigits i hi (by omega), wireBytes_succ, textOf_append_singleton, Nat.zero_add,
      hpair, List.append_assoc, Nat.add_right_comm 1 (2 * n) 1]
    rfl

theorem WellFormedLine.holdsLine {s : State} {k : Nat} (h : WellFormedLine s k) :
    HoldsLine s (wireBytes s.line 0 (k + 4)) := by
  have hk := payloadBytes_le_four h.payload
  have hlength : s.llen.toNat = 1 + 2 * (k + 4) := by rw [h.length]; omega
  have hlen : (textOf (wireBytes s.line 0 (k + 4))).length = 1 + 2 * (k + 4) := by
    rw [textOf_length, wireBytes_length]
  rw [HoldsLine, hlen]
  exact ⟨hlength, take_toList_eq_textOf h.start (by omega) (hlength ▸ h.digits)⟩

section
variable {s : State} {bs : List Byte}

theorem charAt_of_holdsLine (h : HoldsLine s bs) {i : Nat} {c : Byte} (hc : (textOf bs)[i]? = some c) :
    charAt s.line i = c := by
  obtain ⟨-, htext⟩ := h
  obtain ⟨hi, -⟩ := List.getElem?_eq_some_iff.mp hc
  rw [← htext, List.getElem?_take_of_lt hi] at hc
  obtain ⟨hcap, hget⟩ := List.getElem?_eq_some_iff.mp hc
  rw [charAt_eq_getElem _ (by simpa using hcap)]
  simpa using hget

theorem wireByte_of_holdsLine (h : HoldsLine s bs) {j : Nat} {b : Byte} (hb : bs[j]? = some b) :
    wireByte s.line j = b := by
  obtain ⟨hhigh, hlow⟩ := textOf_getElem? hb
  rw [wireByte, charAt_of_holdsLine h hhigh, charAt_of_holdsLine h hlow, digitOf_hexchar, digitOf_hexchar,
    high_digit_add_low_digit]

/-- The wire bytes of a line are those that its text spells. -/
theorem wireBytes_of_holdsLine (h : HoldsLine s bs) {n : Nat} (hlen : bs.length = n) :
    wireBytes s.line 0 n = bs := by
  subst hlen
  apply List.ext_getElem (wireBytes_length 0 bs.length)
  intro j _ hj
  simpa [wireBytes] using wireByte_of_holdsLine h (List.getElem?_eq_getElem hj)

/-- The text of k + 4 bytes, k a payload width, is well formed. -/
theorem wellFormedLine_of_holdsLine (h : HoldsLine s bs) {k : Nat} (hk : PayloadBytes k) (hlen : bs.length = k + 4) :
    WellFormedLine s k where
  payload := hk
  length := by rw [h.1, textOf_length, hlen]; omega
  start := charAt_of_holdsLine h rfl
  digits i hi hlt := by
    have hc := List.getElem?_eq_getElem (h.1 ▸ hlt)
    rw [charAt_of_holdsLine h hc]
    exact isHexDigit_of_textOf_getElem? hi hc

end

/-- Settles O28: an accepted line is well formed, so it is the text of its wire bytes, the last of them the checksum. -/
theorem decodeAcceptsOnlyCheckedLines : Obligations.DecodeAcceptsOnlyCheckedLines := by
  unfold Obligations.DecodeAcceptsOnlyCheckedLines
  intro s t h herr
  obtain ⟨k, hk, hsum, -⟩ := exec_decode_ok h herr
  have hline := hk.holdsLine
  rw [wireBytes_succ] at hsum hline
  exact ⟨_, _, k, hk.payload, wireBytes_length 0 (k + 3), hline, checksum_append_eq_zero_iff.mp hsum⟩

/-! ### The frame of a line (R164) -/

/-- The frame of R164, from the bytes of the line: c, the register low byte first, the payload field and the
checksum. -/
def wireFrame (c d1 d2 : Byte) (ps : List Byte) (x : Byte) : Frame where
  command := c
  register := d2 ++ d1
  present := if ps.length = 0 then 0 else 1
  width := ps.length
  payload := if ps.length = 0 then 0 else revMin (BitVec.ofNat 32 (beValue ps))
  checksum := x

theorem swap16_append (a b : Byte) : swap16 (a ++ b) = b ++ a := by
  rw [swap16, BitVec.extractLsb'_append_eq_left, BitVec.extractLsb'_append_eq_right]

theorem frameOf_eq_wireFrame (chars : Vector Byte Config.lineCap) (k : Nat) :
    frameOf chars k = wireFrame (wireByte chars 0) (wireByte chars 1) (wireByte chars 2) (wireBytes chars 3 k)
      (wireByte chars (k + 3)) := by
  simp only [frameOf, wireFrame, swap16_append, wireBytes_length]

section
variable {s : State} {c d1 d2 x : Byte} {ps : List Byte}

theorem wireFrame_present (h : ps.length ≠ 0) : (wireFrame c d1 d2 ps x).present = 1 := if_neg h

theorem wireFrame_payload (h : ps.length ≠ 0) :
    (wireFrame c d1 d2 ps x).payload = revMin (BitVec.ofNat 32 (beValue ps)) := if_neg h

theorem frameOf_of_holdsLine (h : HoldsLine s (c :: d1 :: d2 :: (ps ++ [x]))) :
    frameOf s.line ps.length = wireFrame c d1 d2 ps x := by
  have hbytes := wireBytes_of_holdsLine h (n := ps.length + 4) (by simp)
  rw [wireBytes_layout] at hbytes
  injection hbytes with hc hbytes
  injection hbytes with hd1 hbytes
  injection hbytes with hd2 hbytes
  obtain ⟨hps, hx⟩ := List.append_inj' hbytes rfl
  injection hx with hx
  rw [frameOf_eq_wireFrame, hc, hd1, hd2, hps, hx]

theorem exec_decode_of_checksum_eq (hk : PayloadBytes ps.length) (h : HoldsLine s (c :: d1 :: d2 :: (ps ++ [x])))
    (hsum : checksum (c :: d1 :: d2 :: ps) = x) :
    exec .decode s = .next ((s.storeFrame (wireFrame c d1 d2 ps x)).setErr .ok) := by
  have hlen : (c :: d1 :: d2 :: (ps ++ [x])).length = ps.length + 4 := by simp
  rw [← frameOf_of_holdsLine h]
  apply (wellFormedLine_of_holdsLine h hk hlen).exec_decode_of_checksum_eq
  rwa [wireBytes_of_holdsLine h hlen, checksum_layout_eq_zero_iff]

theorem exec_decode_of_checksum_ne (hk : PayloadBytes ps.length) (h : HoldsLine s (c :: d1 :: d2 :: (ps ++ [x])))
    (hsum : checksum (c :: d1 :: d2 :: ps) ≠ x) : exec .decode s = .next (s.setErr .checksumError) := by
  have hlen : (c :: d1 :: d2 :: (ps ++ [x])).length = ps.length + 4 := by simp
  apply (wellFormedLine_of_holdsLine h hk hlen).exec_decode_of_checksum_ne
  rwa [wireBytes_of_holdsLine h hlen, ne_eq, checksum_layout_eq_zero_iff]

end

/-- The register of R80, as a word. -/
theorem setWidth_append_bytes (high low : Byte) :
    (high ++ low).setWidth 32 = BitVec.ofNat 32 (high.toNat * 256 + low.toNat) := by
  apply BitVec.eq_of_toNat_eq
  rw [toNat_setWidth_half, toNat_append_eq_add, BitVec.toNat_ofNat]
  omega

/-- Settles O26: the frame of R164, as the registers hold it. -/
theorem decodeParsesTheLine : Obligations.DecodeParsesTheLine := by
  unfold Obligations.DecodeParsesTheLine
  intro s c d1 d2 x ps hk h
  refine ⟨fun hsum => ?_, exec_decode_of_checksum_ne hk h⟩
  rw [exec_decode_of_checksum_eq hk h hsum, ← setWidth_append_bytes]
  rfl

/-! ### A change of one bit, and of one wire byte (R172) -/

section
variable {s : State} {i : Fin Config.lineCap} {b : Fin 8} {k : Nat}

theorem charAt_flipBit_self_ne (s : State) (i : Fin Config.lineCap) (b : Fin 8) :
    charAt (flipBit s i b).line i.val ≠ charAt s.line i.val := by
  have hflip : ∀ (c : Byte) (b : Fin 8), c ^^^ (1#8 <<< b.val) ≠ c := by decide +kernel
  rw [charAt_eq_getElem _ i.isLt, charAt_eq_getElem _ i.isLt]
  simpa [flipBit] using hflip s.line[i] b

theorem charAt_flipBit_of_ne {j : Nat} (h : j ≠ i.val) : charAt (flipBit s i b).line j = charAt s.line j := by
  by_cases hj : j < Config.lineCap
  · rw [charAt_eq_getElem _ hj, charAt_eq_getElem _ hj]
    exact Vector.getElem_set_ne i.isLt hj (Ne.symm h)
  · rw [charAt_eq_zero _ hj, charAt_eq_zero _ hj]

theorem isHexDigit_charAt_iff (s : State) (i : Fin Config.lineCap) :
    isHexDigit (charAt s.line i.val) = true ↔ hexval s.line[i] ≠ none := by
  rw [charAt_eq_getElem _ i.isLt]
  exact Option.isSome_iff_ne_none

/-- After a flip in ':' or in a digit that becomes none, the line is not well formed. -/
theorem WellFormedLine.not_wellFormedLine_flipBit (h : WellFormedLine s k) (hi : i.val < s.llen.toNat)
    (hbad : i.val = 0 ∨ hexval (flipBit s i b).line[i] = none) (k' : Nat) : ¬ WellFormedLine (flipBit s i b) k' := by
  intro hflip
  by_cases hzero : i.val = 0
  · apply charAt_flipBit_self_ne s i b
    rw [hzero, h.start, hflip.start]
  · have hdigit := hflip.digits i (by omega) hi
    exact (isHexDigit_charAt_iff _ i).mp hdigit (hbad.resolve_left hzero)

/-- After a flip of a digit into another the line is still well formed. -/
theorem WellFormedLine.flipBit_of_digit (h : WellFormedLine s k) (hzero : i.val ≠ 0)
    (hdigit : hexval (flipBit s i b).line[i] ≠ none) : WellFormedLine (flipBit s i b) k where
  payload := h.payload
  length := h.length
  start := by rw [charAt_flipBit_of_ne (Ne.symm hzero), h.start]
  digits j hj hlt := by
    by_cases hji : j = i.val
    · rw [hji]
      exact (isHexDigit_charAt_iff _ i).mpr hdigit
    · rw [charAt_flipBit_of_ne hji]
      exact h.digits j hj hlt

/-- Such a flip changes one wire byte, the one that the digit belongs to, and no other. -/
theorem WellFormedLine.checksum_flipBit_ne (h : WellFormedLine s k) (h' : WellFormedLine (flipBit s i b) k)
    (hzero : i.val ≠ 0) (hi : i.val < s.llen.toNat) :
    checksum (wireBytes (flipBit s i b).line 0 (k + 4)) ≠ checksum (wireBytes s.line 0 (k + 4)) := by
  have hlength := h.length
  have hlength' := h'.length
  obtain ⟨j, hj⟩ : ∃ j, i.val = 1 + 2 * j ∨ i.val = 2 + 2 * j := ⟨(i.val - 1) / 2, by omega⟩
  apply checksum_wireBytes_ne (j := j) (by omega)
  · intro heq
    have hchars := congrArg hexPair heq
    rw [hexPair_wireByte (h.digits _ (by omega) (by omega)) (h.digits _ (by omega) (by omega)),
      hexPair_wireByte (h'.digits _ (by omega) (by omega)) (h'.digits _ (by omega) (by omega))] at hchars
    injection hchars with hhigh hlow
    injection hlow with hlow
    apply charAt_flipBit_self_ne s i b
    rcases hj with hj | hj <;> rw [hj]
    · exact hhigh
    · exact hlow
  · intro l hl
    exact wireByte_congr (charAt_flipBit_of_ne (by omega)) (charAt_flipBit_of_ne (by omega))

end

/-- Settles O44: a flip breaks the form of the line or changes one wire byte of it, and the checksum notices that. -/
theorem everySingleFlipIsDetected : Obligations.EverySingleFlipIsDetected := by
  unfold Obligations.EverySingleFlipIsDetected
  constructor
  · intro s t i b h herr hi
    obtain ⟨k, hk, hsum, -⟩ := exec_decode_ok h herr
    by_cases hbad : i.val = 0 ∨ hexval (flipBit s i b).line[i] = none
    · exact ⟨_, exec_decode_of_not_wellFormed (hk.not_wellFormedLine_flipBit hi hbad), (if_pos hbad).symm⟩
    · obtain ⟨hzero, hdigit⟩ := not_or.mp hbad
      have hflip := hk.flipBit_of_digit hzero hdigit
      have hne := hk.checksum_flipBit_ne hflip hzero hi
      exact ⟨_, hflip.exec_decode_of_checksum_ne (hsum ▸ hne), (if_neg hbad).symm⟩
  · intro s s' t as bs b c hbc hs hs' h herr
    obtain ⟨k, hk, hsum, -⟩ := exec_decode_ok h herr
    obtain ⟨detects, -⟩ := checksumDetection
    have hlen : (as ++ b :: bs).length = k + 4 := by
      have hlength := hk.length
      rw [hs.1, textOf_length] at hlength
      omega
    have hlen' : (as ++ c :: bs).length = k + 4 := by simpa using hlen
    rw [wireBytes_of_holdsLine hs hlen] at hsum
    refine ⟨_, (wellFormedLine_of_holdsLine hs' hk.payload hlen').exec_decode_of_checksum_ne ?_, rfl⟩
    rw [wireBytes_of_holdsLine hs' hlen', ← hsum]
    exact detects as bs c b hbc.symm

/-! ### The payload field that ENCODE builds (R141) -/

/-- The payload field holds the whole of the converted payload. -/
theorem payloadField_some_fits (v : Word) :
    (payloadField (some v)).2 ≠ 0 ∧ (revMin v).toNat < 2 ^ (8 * (payloadField (some v)).2) := by
  have hv : (revMin v).toNat < 2 ^ 32 := (revMin v).isLt
  rcases payloadField_cases (some v) with ⟨hnone, -⟩ | ⟨x, hx, -, hk⟩
  · cases hnone
  · cases hx
    rcases hk with ⟨hk, hlt⟩ | ⟨hk, -, hlt⟩ | ⟨hk, -⟩ <;> rw [hk]
    · exact ⟨by decide, hlt⟩
    · exact ⟨by decide, hlt⟩
    · exact ⟨by decide, hv⟩

/-- The payload field (R141), as bytes. -/
def payloadBytes (p : Option Word) : List Byte := beBytes (payloadField p).1 (payloadField p).2

theorem wireBody_extractLsb' (c : Byte) (v : Word) (p : Option Word) :
    wireBody c (v.extractLsb' 0 16) p = c :: byteOf v 0 :: byteOf v 1 :: payloadBytes p := by
  rw [wireBody, headerBytes_extractLsb']
  rfl

theorem payloadBytes_length (p : Option Word) : (payloadBytes p).length = (payloadField p).2 := beBytes_length _ _

/-- The payload field is as wide as one of R76's. -/
theorem payloadBytes_width (p : Option Word) : PayloadBytes (payloadBytes p).length := by
  rw [payloadBytes_length]
  exact encodeFn_width_cases 0 0 p

theorem payloadBytes_some_length_ne (v : Word) : (payloadBytes (some v)).length ≠ 0 := by
  obtain ⟨hne, -⟩ := payloadField_some_fits v
  rwa [payloadBytes_length]

theorem beValue_payloadBytes_some (v : Word) : beValue (payloadBytes (some v)) = (revMin v).toNat := by
  obtain ⟨-, hfits⟩ := payloadField_some_fits v
  rw [payloadBytes, beValue_beBytes]
  exact Nat.mod_eq_of_lt hfits

theorem byteSum_beBytes (v : Word) (n : Nat) : byteSum (beBytes v n) = byteSum (leBytes v n) := by
  rw [← reverse_beBytes, byteSum_reverse]

/-- The conversion and the packing keep the sum of the payload's bytes (R107). -/
theorem byteSum_payloadBytes_some (v : Word) : byteSum (payloadBytes (some v)) = byteSum (wordBytes v) := by
  obtain ⟨-, hfits⟩ := payloadField_some_fits v
  have hk := payloadBytes_width (some v)
  rw [payloadBytes_length] at hk
  calc byteSum (payloadBytes (some v))
      = byteSum (leBytes (revMin v) (payloadField (some v)).2) := byteSum_beBytes _ _
    _ = byteSum (wordBytes (revMin v)) := (byteSum_wordBytes (payloadBytes_le_four hk) hfits).symm
    _ = byteSum (wordBytes v) := byteSum_wordBytes_revMin v

/-! ### DECODE after ENCODE (R170) -/

/-- A padded text, with its length, is the line of its bytes. -/
theorem holdsLine_of_padLine {s : State} {bs : List Byte} (hlen : bs.length ≤ 8)
    (hline : s.line = padLine (textOf bs)) (hllen : s.llen = BitVec.ofNat 32 (textOf bs).length) : HoldsLine s bs := by
  have hcap := textOf_length bs
  constructor
  · rw [hllen, BitVec.toNat_ofNat, Nat.mod_eq_of_lt (by omega)]
  · apply List.ext_getElem (by simp [hcap, Config.lineCap]; omega)
    intro i _ hi
    simp [hline, padLine, hi]

theorem encodedLine_checksum (s : State) :
    (encodedLine s).checksum =
      checksum (byteOf s.fcmd 0 :: byteOf s.freg 0 :: byteOf s.freg 1 :: payloadBytes (payloadOperand s)) := by
  rw [encodedLine, encodeFn_checksum, wireBody_extractLsb']

theorem encodedLine_text (s : State) :
    (encodedLine s).text =
      textOf (byteOf s.fcmd 0 :: byteOf s.freg 0 :: byteOf s.freg 1 ::
        (payloadBytes (payloadOperand s) ++ [(encodedLine s).checksum])) := by
  rw [encodedLine_checksum, encodedLine, encodeFn_text, wireBody_extractLsb']
  rfl

/-- What ENCODE has left in LINE and LLEN is the line of its wire bytes. -/
theorem holdsLine_of_encodedLine {s u : State} (hline : u.line = padLine (encodedLine s).text)
    (hllen : u.llen = BitVec.ofNat 32 (encodedLine s).text.length) :
    HoldsLine u (byteOf s.fcmd 0 :: byteOf s.freg 0 :: byteOf s.freg 1 ::
      (payloadBytes (payloadOperand s) ++ [(encodedLine s).checksum])) := by
  have hwidth := payloadBytes_le_four (payloadBytes_width (payloadOperand s))
  rw [encodedLine_text] at hline hllen
  exact holdsLine_of_padLine (by simp; omega) hline hllen

section
variable {c d1 d2 x : Byte}

theorem wireFrame_payloadOperand_present (s : State) :
    (wireFrame c d1 d2 (payloadBytes (payloadOperand s)) x).present = s.present := by
  rcases payloadOperand_cases s with ⟨h, hp⟩ | ⟨h, hp⟩ <;> rw [hp, h]
  · rfl
  · exact wireFrame_present (payloadBytes_some_length_ne s.fpay)

/-- DECODE converts what ENCODE has converted already. -/
theorem wireFrame_some_payload (v : Word) :
    (wireFrame c d1 d2 (payloadBytes (some v)) x).payload = revMin (revMin v) := by
  rw [wireFrame_payload (payloadBytes_some_length_ne v), beValue_payloadBytes_some, BitVec.ofNat_toNat,
    BitVec.setWidth_eq]

end

theorem setWidth_byteOf_zero {v : Word} (h : v.toNat ≤ 0xFF) : (byteOf v 0).setWidth 32 = v := by
  apply BitVec.eq_of_toNat_eq
  rw [BitVec.toNat_setWidth_of_le (by decide), toNat_byteOf_zero h]

theorem setWidth_byteOf_append {v : Word} (h : v.toNat ≤ 0xFFFF) : (byteOf v 1 ++ byteOf v 0).setWidth 32 = v := by
  apply BitVec.eq_of_toNat_eq
  rw [toNat_setWidth_half, toNat_append_eq_add, byteOf_toNat, byteOf_toNat]
  omega

/-- Settles O42: ENCODE leaves the line of its wire bytes, and DECODE reads the frame from them. -/
theorem decodeOfEncodeRoundTrip : Obligations.DecodeOfEncodeRoundTrip := by
  unfold Obligations.DecodeOfEncodeRoundTrip
  intro s hfcmd hfreg
  refine ⟨_, exec_encode_of_le hfcmd hfreg, rfl, fun u hline hllen => ?_⟩
  have hdecode := exec_decode_of_checksum_eq (payloadBytes_width _) (holdsLine_of_encodedLine hline hllen)
    (encodedLine_checksum s).symm
  refine ⟨_, hdecode, rfl, setWidth_byteOf_zero hfcmd, setWidth_byteOf_append hfreg,
    ?present, ?width, rfl, ?none, ?some⟩
  case present => rw [State.setErr_present, State.storeFrame_present, wireFrame_payloadOperand_present]
  case width => exact congrArg (BitVec.ofNat 3) (payloadBytes_length _)
  case none =>
    intro h
    rw [payloadOperand_of_absent h]
    rfl
  case some =>
    intro h
    rw [payloadOperand_of_present h, State.setErr_fpay, State.storeFrame_fpay, wireFrame_some_payload]
    exact ⟨rfl, revMinInvolutionDomain s.fpay⟩

/-! ### ENCODE after DECODE (R171) -/

theorem checksum_layout_congr {c d1 d2 : Byte} {ps qs : List Byte} (h : byteSum ps = byteSum qs) :
    checksum (c :: d1 :: d2 :: ps) = checksum (c :: d1 :: d2 :: qs) := by
  have hsum : ps.sum = qs.sum := by
    apply BitVec.eq_of_toNat_eq
    rw [toNat_sum_eq_byteSum_mod, toNat_sum_eq_byteSum_mod, h]
  simp only [checksum_eq_iff, List.sum_cons, hsum]

theorem byteSum_wordBytes_ofNat_beValue {ps : List Byte} (h : ps.length ≤ 4) :
    byteSum (wordBytes (BitVec.ofNat 32 (beValue ps))) = byteSum ps := by
  have hfits : (BitVec.ofNat 32 (beValue ps)).toNat < 2 ^ (8 * ps.length) := by
    rw [toNat_ofNat_beValue h]
    exact beValue_lt ps
  rw [byteSum_wordBytes h hfits, ← byteSum_beBytes, beBytes_ofNat_beValue h]

section
variable {s : State} {c d1 d2 x : Byte} {ps : List Byte}

/-- The payload field built again from a decoded payload: its bytes are the decoded ones up to order and bytes 0. -/
theorem byteSum_payloadBytes_storeFrame (h : ps.length ≤ 4) :
    byteSum (payloadBytes (payloadOperand ((s.storeFrame (wireFrame c d1 d2 ps x)).setErr .ok))) = byteSum ps := by
  by_cases hnil : ps = []
  · subst hnil
    rfl
  · have hlen : ps.length ≠ 0 := by simpa using hnil
    have hpresent : ((s.storeFrame (wireFrame c d1 d2 ps x)).setErr .ok).present = 1 := by
      rw [State.setErr_present, State.storeFrame_present, wireFrame_present hlen]
    rw [payloadOperand_of_present hpresent, State.setErr_fpay, State.storeFrame_fpay,
      wireFrame_payload hlen, byteSum_payloadBytes_some, byteSum_wordBytes_revMin, byteSum_wordBytes_ofNat_beValue h]

theorem encodedLine_storeFrame_checksum (h : ps.length ≤ 4) :
    (encodedLine ((s.storeFrame (wireFrame c d1 d2 ps x)).setErr .ok)).checksum = checksum (c :: d1 :: d2 :: ps) := by
  have hc : byteOf (c.setWidth 32) 0 = c := by simp [byteOf, BitVec.extractLsb'_setWidth_of_le]
  have hlow : byteOf ((d2 ++ d1).setWidth 32) 0 = d1 := by
    rw [byteOf, BitVec.extractLsb'_setWidth_of_le (by decide), BitVec.extractLsb'_append_eq_right]
  have hhigh : byteOf ((d2 ++ d1).setWidth 32) 1 = d2 := by
    rw [byteOf, BitVec.extractLsb'_setWidth_of_le (by decide), BitVec.extractLsb'_append_eq_left]
  rw [encodedLine_checksum]
  simp only [State.setErr_fcmd, State.setErr_freg, State.storeFrame_fcmd, State.storeFrame_freg, wireFrame]
  rw [hc, hlow, hhigh]
  exact checksum_layout_congr (byteSum_payloadBytes_storeFrame h)

end

/-- Settles O43: the payload's bytes may be reordered or lose bytes 0 on the way, which the checksum does not see. -/
theorem reencodingKeepsTheChecksum : Obligations.ReencodingKeepsTheChecksum := by
  unfold Obligations.ReencodingKeepsTheChecksum
  intro s t h herr
  obtain ⟨k, hk, hsum, rfl⟩ := exec_decode_ok h herr
  rw [wireBytes_layout, checksum_layout_eq_zero_iff] at hsum
  have hwidth : (wireBytes s.line 3 k).length ≤ 4 := (wireBytes_length 3 k).trans_le (payloadBytes_le_four hk.payload)
  rw [frameOf_eq_wireFrame]
  refine ⟨_, exec_encode_of_le ?fcmd ?freg, rfl, ?fcsum⟩
  case fcmd =>
    rw [State.setErr_fcmd, State.storeFrame_fcmd, BitVec.toNat_setWidth_of_le (by decide)]
    exact Nat.le_of_lt_succ (BitVec.isLt _)
  case freg =>
    rw [State.setErr_freg, State.storeFrame_freg, toNat_setWidth_half]
    exact Nat.le_of_lt_succ (BitVec.isLt _)
  case fcsum =>
    rw [State.setErr_fcsum, State.storeEncoded_fcsum, encodedLine_storeFrame_checksum hwidth, hsum]
    rfl

end Sys2Proof.Machine
end

section
/-! PROOFS of the statements of spec/44_register_catalog.md: the default catalog (R190), `name_index` and `nameOf`
(R191), and NAMEOF (R192). -/

namespace Sys2Proof.Machine

/-! ### Catalogs with distinct addresses (R190, R193) -/

theorem catalogWellFormed_iff {cat : List CatalogEntry} :
    catalogWellFormed cat = true ↔ (cat.map CatalogEntry.address).Nodup := by
  simp [catalogWellFormed]

/-- There are 2^16 addresses, so a word holds every position in a well-formed catalog. -/
theorem length_le_of_catalogWellFormed {cat : List CatalogEntry} (hwf : catalogWellFormed cat = true) :
    cat.length ≤ 2 ^ 16 := by
  have hcard : (cat.map CatalogEntry.address).length ≤ Fintype.card Half :=
    (catalogWellFormed_iff.mp hwf).length_le_card
  rwa [List.length_map, ← FinEnum.card_eq_fintypeCard, FinEnum.card_bitVec] at hcard

/-- The address tells the entries of a well-formed catalog apart. -/
theorem eq_of_address_eq {cat : List CatalogEntry} (hwf : catalogWellFormed cat = true) {e f : CatalogEntry}
    (he : e ∈ cat) (hf : f ∈ cat) (h : e.address = f.address) : e = f :=
  List.inj_on_of_nodup_map (catalogWellFormed_iff.mp hwf) he hf h

/-- Settles O33: the six entries are the list's, and their addresses are distinct. -/
theorem defaultCatalogEntries : Obligations.DefaultCatalogEntries := by
  unfold Obligations.DefaultCatalogEntries
  exact ⟨rfl, defaultCatalog_wellFormed⟩

/-! ### `name_index` and `nameOf` (R191) -/

/-- Everything name_index can answer, and when. -/
theorem nameIndex_cases (cat : List CatalogEntry) (a : Half) :
    (nameIndex cat a = 0 ∧ ∀ e ∈ cat, e.address ≠ a) ∨
      ∃ i : Fin cat.length, nameIndex cat a = i.val + 1 ∧ cat[i].address = a := by
  unfold nameIndex
  cases hfind : cat.findIdx? (fun e => e.address == a) with
  | none => exact .inl ⟨rfl, by simpa using hfind⟩
  | some i =>
    obtain ⟨hi, haddr, -⟩ := List.findIdx?_eq_some_iff_getElem.mp hfind
    exact .inr ⟨⟨i, hi⟩, rfl, by simpa using haddr⟩

theorem nameAt_position {cat : List CatalogEntry} (i : Fin cat.length) : nameAt cat (i.val + 1) = cat[i].name := by
  simp [nameAt]

/-- Settles O32: name_index gives the position of an entry with the address, and there is no second such entry. -/
theorem nameOfGivesTheEntryName : Obligations.NameOfGivesTheEntryName := by
  unfold Obligations.NameOfGivesTheEntryName nameOf
  intro cat a hwf
  rcases nameIndex_cases cat a with ⟨hindex, hnone⟩ | ⟨i, hindex, haddr⟩ <;> rw [hindex]
  case inl => exact ⟨fun e he hea => absurd hea (hnone e he), fun _ => rfl⟩
  case inr =>
    have hi : cat[i] ∈ cat := List.getElem_mem _
    refine ⟨fun e he hea => ?_, fun hnone => absurd haddr (hnone _ hi)⟩
    rw [nameAt_position, eq_of_address_eq hwf hi he (haddr.trans hea.symm)]

/-! ### NAMEOF (R192) -/

/-- The word `r` is what R192 puts in RES for an ARG of `v`: the 1-based position of an entry with the address `v`, or 0
when no entry has it. -/
def IsPosition (cat : List CatalogEntry) (v r : Word) : Prop :=
  (r = 0 ∧ ∀ e ∈ cat, e.address.toNat ≠ v.toNat) ∨
    ∃ i : Fin cat.length, r.toNat = i.val + 1 ∧ cat[i].address.toNat = v.toNat

/-- A 16-bit operand in range is the whole register. -/
theorem toNat_extract_half {v : Word} (h : v.toNat ≤ 0xFFFF) : (v.extractLsb' 0 16).toNat = v.toNat := by
  rw [BitVec.extractLsb'_toNat, Nat.shiftRight_zero, Nat.mod_eq_of_lt (by omega)]

theorem isPosition_nameIndex {cat : List CatalogEntry} (hwf : catalogWellFormed cat = true) {v : Word}
    (hv : v.toNat ≤ 0xFFFF) : IsPosition cat v (BitVec.ofNat 32 (nameIndex cat (v.extractLsb' 0 16))) := by
  have hlen := length_le_of_catalogWellFormed hwf
  have hval := toNat_extract_half hv
  rcases nameIndex_cases cat (v.extractLsb' 0 16) with ⟨hindex, hnone⟩ | ⟨i, hindex, haddr⟩ <;> rw [hindex]
  case inl =>
    refine .inl ⟨rfl, fun e he heq => hnone e he ?_⟩
    exact BitVec.eq_of_toNat_eq (heq.trans hval.symm)
  case inr =>
    have hi : i.val < cat.length := i.isLt
    refine .inr ⟨i, ?_, by rw [haddr, hval]⟩
    rw [BitVec.toNat_ofNat, Nat.mod_eq_of_lt (by omega)]

theorem exec_nameof_of_le {s : State} (h : s.arg.toNat ≤ 0xFFFF) :
    exec .nameof s =
      .next { s with res := BitVec.ofNat 32 (nameIndex s.catalog (s.arg.extractLsb' 0 16)), err := 0 } := by
  rcases halfOperand_cases s.arg with ⟨-, ho⟩ | ⟨hgt, -⟩
  · simp only [exec, execNameof, nameofIn, ho]
    rfl
  · omega

theorem exec_nameof_of_gt {s : State} (h : 0xFFFF < s.arg.toNat) : exec .nameof s = .next { s with err := 1 } := by
  rcases halfOperand_cases s.arg with ⟨hle, -⟩ | ⟨-, ho⟩
  · omega
  · simp only [exec, execNameof, nameofIn, ho]
    rfl

/-- Settles O30: the position is `name_index`, which a word holds untruncated as the addresses are distinct. -/
theorem nameofFindsThePositionInAnyCatalog : Obligations.NameofFindsThePositionInAnyCatalog := by
  unfold Obligations.NameofFindsThePositionInAnyCatalog
  intro s hwf
  exact ⟨fun h => ⟨_, isPosition_nameIndex hwf h, exec_nameof_of_le h⟩, exec_nameof_of_gt⟩

/-! ### NAMEOF with the default catalog (R190) -/

/-- R190's index column, address by address. -/
def defaultPosition (v : Word) : Word :=
  if v = 0x0200 then 1 else if v = 0x0201 then 2 else if v = 0x0207 then 3
  else if v = 0xEDD5 then 4 else if v = 0xEDF0 then 5 else if v = 0xEDF6 then 6 else 0

theorem defaultPosition_address : ∀ i : Fin Config.defaultCatalog.length,
    defaultPosition (Config.defaultCatalog[i].address.setWidth 32) = BitVec.ofNat 32 (i.val + 1) := by
  decide

theorem defaultPosition_of_unknown {v : Word} (h : ∀ e ∈ Config.defaultCatalog, e.address.toNat ≠ v.toNat) :
    defaultPosition v = 0 := by
  have hne : ∀ e ∈ Config.defaultCatalog, v ≠ e.address.setWidth 32 := fun e he hv =>
    h e he (by rw [hv, toNat_setWidth_half])
  simp only [Config.defaultCatalog, List.forall_mem_cons, BitVec.reduceSetWidth] at hne
  simp [defaultPosition, hne]

/-- In the default catalog there is one position for each word. -/
theorem eq_defaultPosition_of_isPosition {v r : Word} (h : IsPosition Config.defaultCatalog v r) :
    r = defaultPosition v := by
  rcases h with ⟨rfl, hnone⟩ | ⟨i, hr, haddr⟩
  · exact (defaultPosition_of_unknown hnone).symm
  · have hv : v = Config.defaultCatalog[i].address.setWidth 32 :=
      BitVec.eq_of_toNat_eq (by rw [toNat_setWidth_half, haddr])
    rw [hv, defaultPosition_address, ← hr, BitVec.ofNat_toNat, BitVec.setWidth_eq]

/-- Settles O31: the default catalog is well formed, so NAMEOF finds the position in it, of which there is one. -/
theorem nameofWithTheDefaultCatalog : Obligations.NameofWithTheDefaultCatalog := by
  unfold Obligations.NameofWithTheDefaultCatalog
  intro s hcat
  refine ⟨fun h => ?_, exec_nameof_of_gt⟩
  have hpos := eq_defaultPosition_of_isPosition (isPosition_nameIndex defaultCatalog_wellFormed h)
  rw [exec_nameof_of_le h, hcat, hpos]
  rfl

end Sys2Proof.Machine
end

section
/-! PROOFS of the statements of spec/45_host_interface.md: NOP (R200), what a host read returns (R201) and a host write
does (R202) index by index, and that every operation, every event and every run goes on (R205). -/

namespace Sys2Proof.Machine

open Sys2Proof.Safety

/-! ### NOP (R200) -/

theorem exec_nop (s : State) : exec .nop s = .next s := rfl

theorem performOp_encode (i : Instr) (s : State) : performOp (encode i) s = exec i s := by
  simp only [performOp, decode_encode]

/-- Settles O17: NOP's meaning is the state as it was, and NOP's word is 0. -/
theorem nopWritesNothing : Obligations.NopWritesNothing := by
  unfold Obligations.NopWritesNothing
  intro s
  refine ⟨exec_nop s, ?_⟩
  calc hostWrite 0x00 0x00000000 s = performOp (encode .nop) s := hostWrite_opr _ s
    _ = exec .nop s := performOp_encode .nop s
    _ = .next s := exec_nop s

/-! ### The indices of the map's last rows (R22, R36) -/

/-- LINE's indices come after those of the registers that R23 names one by one. -/
theorem index_line_ne (i : Fin Config.lineCap) {k : Index} (hk : k.toNat < 0x10) : (HostReg.line i).index ≠ k := by
  rintro rfl
  rw [toNat_index_line] at hk
  omega

theorem index_line_range (i : Fin Config.lineCap) :
    0x10 ≤ (HostReg.line i).index.toNat ∧ (HostReg.line i).index.toNat ≤ 0x20 := by
  have hi : i.val < 17 := i.isLt
  rw [toNat_index_line]
  omega

/-- A reserved index comes after those of the registers that R23 names one by one. -/
theorem ne_of_regAt_none {idx : Index} (h : regAt idx = none) {k : Index} (hk : k.toNat < 0x0B) : idx ≠ k := by
  rintro rfl
  have hout := reserved_of_regAt_none h
  omega

/-- A reserved index is not one of LINE's. -/
theorem not_line_range_of_regAt_none {idx : Index} (h : regAt idx = none) :
    ¬ (0x10 ≤ idx.toNat ∧ idx.toNat ≤ 0x20) := by
  have hout := reserved_of_regAt_none h
  omega

/-! ### Reads (R201) -/

/-- A read leaves the state as it is, but for the host's record of what it has read. -/
theorem hostEvent_read (s : State) (idx : Index) :
    hostEvent (.txn (.read idx)) s = .next (s.answer (hostRead s idx)) := rfl

/-- The entry at a LINE index, found by its distance from the first. -/
theorem getElem?_line_index (s : State) (i : Fin Config.lineCap) :
    s.line[(HostReg.line i).index.toNat - 0x10]? = some s.line[i] := by
  rw [toNat_index_line, Nat.add_sub_cancel_left]
  exact Vector.getElem?_eq_getElem i.isLt

/-- Settles O9: at a register's index the row of R201 is that register's value, and at a reserved index it is 0. -/
theorem hostReadFollowsTheMap : Obligations.HostReadFollowsTheMap := by
  unfold Obligations.HostReadFollowsTheMap
  intro s idx
  refine ⟨?_, _, hostEvent_read s idx, rfl⟩
  rcases regAt_cases idx with ⟨r, -, rfl⟩ | ⟨hnone, -⟩
  · rw [hostRead_index]
    cases r with
    | line i => simp [index_line_ne, index_line_range, getElem?_line_index, -toNat_index_line]
    | _ => rfl
  · rw [hostRead_of_regAt_none hnone]
    simp [ne_of_regAt_none hnone, not_line_range_of_regAt_none hnone, -not_and]

/-! ### Writes (R202) -/

/-- Storing to a LINE entry, found by its index's distance from the first. -/
theorem State.writeReg_line_index (s : State) (v : Word) (i : Fin Config.lineCap) :
    s.writeReg v (.line i) =
      { s with line := s.line.setIfInBounds ((HostReg.line i).index.toNat - 0x10) (v.extractLsb' 0 8) } := by
  rw [State.writeReg_line, toNat_index_line, Nat.add_sub_cancel_left]
  congr 1
  ext j hj
  rw [Vector.getElem_set, Vector.getElem_setIfInBounds]

/-- Settles O11: index 0 is OPR, at another register's index the row of R202 is what that register stores, and a reserved
index stores nothing. -/
theorem hostWriteFollowsTheMap : Obligations.HostWriteFollowsTheMap := by
  unfold Obligations.HostWriteFollowsTheMap
  intro s idx v
  rcases regAt_cases idx with ⟨r, -, rfl⟩ | ⟨hnone, -⟩
  · cases r with
    | opr => exact hostWrite_opr v s
    | line i =>
      rw [hostWrite_index s v (by simp), State.writeReg_line_index]
      simp [index_line_ne, index_line_range, -toNat_index_line]
    | _ => exact hostWrite_index s v (by simp)
  · rw [hostWrite_of_regAt_none hnone]
    simp [ne_of_regAt_none hnone, not_line_range_of_regAt_none hnone, -not_and]

/-! ### Everything goes on (R205) -/

/-- An operation that answers for every ARG up to a bound and for every ARG above it. -/
theorem exec_goes_of_arg_bound {i : Instr} {s u u' : State} {bound : Nat}
    (hle : s.arg.toNat ≤ bound → exec i s = .next u) (hgt : bound < s.arg.toNat → exec i s = .next u') :
    ∃ t, exec i s = .next t := by
  rcases Nat.lt_or_ge bound s.arg.toNat with h | h
  exacts [⟨u', hgt h⟩, ⟨u, hle h⟩]

/-- An operation whose operand is out of range, or whose line is bad, still answers: the error is a next state. -/
theorem exec_goes (i : Instr) (s : State) : ∃ t, exec i s = .next t := by
  cases i with
  | nop | conv | csinit => exact ⟨_, rfl⟩
  | swap16 => exact exec_goes_of_arg_bound exec_swap16_of_le exec_swap16_of_gt
  | csbyte => exact exec_goes_of_arg_bound exec_csbyte_of_le exec_csbyte_of_gt
  | csverify => exact exec_goes_of_arg_bound exec_csverify_of_le exec_csverify_of_gt
  | nameof => exact exec_goes_of_arg_bound exec_nameof_of_le exec_nameof_of_gt
  | encode =>
    rcases Nat.lt_or_ge 0xFF s.fcmd.toNat with hfcmd | hfcmd
    · exact ⟨_, exec_encode_of_gt (.inl hfcmd)⟩
    · rcases Nat.lt_or_ge 0xFFFF s.freg.toNat with hfreg | hfreg
      exacts [⟨_, exec_encode_of_gt (.inr hfreg)⟩, ⟨_, exec_encode_of_le hfcmd hfreg⟩]
  | decode =>
    by_cases hform : ∃ k, WellFormedLine s k
    · obtain ⟨k, hk⟩ := hform
      by_cases hsum : checksum (wireBytes s.line 0 (k + 4)) = 0
      exacts [⟨_, hk.exec_decode_of_checksum_eq hsum⟩, ⟨_, hk.exec_decode_of_checksum_ne hsum⟩]
    · exact ⟨_, exec_decode_of_not_wellFormed (not_exists.mp hform)⟩

/-- An OPR write answers for an unassigned word too. -/
theorem performOp_goes (v : Word) (s : State) : ∃ t, performOp v s = .next t := by
  rcases decode_cases v with ⟨i, -, rfl⟩ | ⟨-, hv⟩
  · rw [performOp_encode]
    exact exec_goes i s
  · exact ⟨_, performOp_of_nine_le s hv⟩

theorem hostWrite_goes (idx : Index) (v : Word) (s : State) : ∃ t, hostWrite idx v s = .next t := by
  rcases regAt_cases idx with ⟨r, -, rfl⟩ | ⟨hnone, -⟩
  · by_cases hr : r = .opr
    · rw [hr, hostWrite_opr]
      exact performOp_goes v s
    · exact ⟨_, hostWrite_index s v hr⟩
  · exact ⟨_, hostWrite_of_regAt_none hnone⟩

theorem hostEvent_goes (e : HostEvent) (s : State) : ∃ t, hostEvent e s = .next t :=
  match e with
  | .txn (.read idx) => ⟨_, hostEvent_read s idx⟩
  | .txn (.write idx v) => hostWrite_goes idx v s
  | .reset => ⟨_, rfl⟩

theorem step_of_pending_nil {s : State} (h : s.pending = []) : step s = .next s := by
  simp only [step, nextEvent, h]

theorem step_of_pending_cons {s : State} {e : HostEvent} {rest : List HostEvent} (h : s.pending = e :: rest) :
    step s = hostEvent e (s.setPending rest) := by
  simp only [step, nextEvent, h]

theorem step_goes (s : State) : Goes s := by
  cases hpending : s.pending with
  | nil => exact ⟨s, step_of_pending_nil hpending⟩
  | cons e rest =>
    rw [Goes, step_of_pending_cons hpending]
    exact hostEvent_goes e _

/-- A run takes one step and goes on from the state that the step answers. -/
theorem run_succ {s t : State} (h : step s = .next t) (n : Nat) : core.run (n + 1) s = core.run n t := by
  have hcore : core.step s = .next t := h
  simp only [Host.Core.run, hcore]

theorem safeRun (n : Nat) (s : State) : SafeRun n s := by
  induction n generalizing s with
  | zero => exact ⟨s, rfl⟩
  | succ n ih =>
    obtain ⟨t, hstep⟩ := step_goes s
    rw [SafeRun, run_succ hstep]
    exact ih t

/-- Settles O51: no operation and no event has another way to end than a next state, and a run is such steps. -/
theorem everyRunGoesOn : Obligations.EveryRunGoesOn := by
  unfold Obligations.EveryRunGoesOn
  exact ⟨exec_goes, hostEvent_goes, safeRun⟩

end Sys2Proof.Machine
end

section
/-! PROOFS of the statements of spec/60_exceptions.md: what an error writes (R226), which operation raises which code
(R221, R224), and that STATUS.ERR is not sticky (R227). -/

namespace Sys2Proof.Machine

/-! ### What an error writes (R226) -/

/-- Every form of outcome that writes more than STATUS.ERR has ERR 0. -/
theorem OpOutcome.eq_of_err_ne_zero {i : Instr} {s t : State} (h : OpOutcome s i t) (herr : t.err ≠ 0) :
    t = { s with err := t.err } := by
  cases h with
  | unchanged => rfl
  | raised => rfl
  | result => exact absurd rfl herr
  | accumulated => exact absurd rfl herr
  | encoded => exact absurd rfl herr
  | decoded => exact absurd rfl herr

/-- Settles O45: an assigned word by the form of its operation's outcome, and any other writes IllegalOp alone. -/
theorem errorsWriteOnlyErr : Obligations.ErrorsWriteOnlyErr := by
  unfold Obligations.ErrorsWriteOnlyErr
  intro v s t h herr
  rcases performOp_next h with ⟨i, -, -, hexec⟩ | ⟨-, rfl⟩
  · exact (exec_outcome hexec).eq_of_err_ne_zero herr
  · rfl

/-! ### Which operation raises which code (R221, R224) -/

/-- The operations that raise FormatError: R221's column "raised by". -/
def RaisesFormatError (i : Instr) : Prop :=
  i = .decode ∨ i = .encode ∨ i = .swap16 ∨ i = .csbyte ∨ i = .csverify ∨ i = .nameof

/-- The code an operation leaves: CHECKSUM_ERROR is DECODE's alone, and ILLEGAL_OP no operation's. -/
theorem exec_err {i : Instr} {s t : State} (hi : i ≠ .nop) (h : exec i s = .next t) :
    t.err = 0 ∨ (t.err = 1 ∧ RaisesFormatError i) ∨ (t.err = 2 ∧ i = .decode) := by
  cases i with
  | nop => exact absurd rfl hi
  | encode =>
    rcases execEncode_next h with ⟨-, -, rfl⟩ | ⟨-, rfl⟩
    · exact .inl rfl
    · exact .inr (.inl ⟨rfl, by simp [RaisesFormatError]⟩)
  | decode =>
    rcases execDecode_next h with ⟨-, rfl⟩ | ⟨-, rfl⟩ | ⟨f, -, rfl⟩
    · exact .inr (.inl ⟨rfl, by simp [RaisesFormatError]⟩)
    · exact .inr (.inr ⟨rfl, rfl⟩)
    · exact .inl rfl
  | conv =>
    obtain rfl := execConv_next h
    exact .inl rfl
  | swap16 =>
    rcases execSwap16_next h with ⟨-, rfl⟩ | ⟨-, rfl⟩
    · exact .inl rfl
    · exact .inr (.inl ⟨rfl, by simp [RaisesFormatError]⟩)
  | csinit =>
    obtain rfl := execCsinit_next h
    exact .inl rfl
  | csbyte =>
    rcases execCsbyte_next h with ⟨-, rfl⟩ | ⟨-, rfl⟩
    · exact .inl rfl
    · exact .inr (.inl ⟨rfl, by simp [RaisesFormatError]⟩)
  | csverify =>
    rcases execCsverify_next h with ⟨-, rfl⟩ | ⟨-, rfl⟩
    · exact .inl rfl
    · exact .inr (.inl ⟨rfl, by simp [RaisesFormatError]⟩)
  | nameof =>
    rcases execNameof_next h with ⟨-, rfl⟩ | ⟨-, rfl⟩
    · exact .inl rfl
    · exact .inr (.inl ⟨rfl, by simp [RaisesFormatError]⟩)

/-- Settles O46: the three codes exclude each other. -/
theorem errorCodesByOperation : Obligations.ErrorCodesByOperation := by
  unfold Obligations.ErrorCodesByOperation
  intro i s t h hi
  rcases exec_err hi h with herr | ⟨herr, hraises⟩ | ⟨herr, rfl⟩
  · simp [herr]
  · exact ⟨.inr (.inl herr), fun _ => hraises, by simp [herr]⟩
  · simp [herr]

/-- NOP keeps ERR, and no other operation raises IllegalOp. -/
theorem exec_err_ne_illegalOp {i : Instr} {s t : State} (h : exec i s = .next t) (hs : s.err ≠ 3) : t.err ≠ 3 := by
  by_cases hi : i = .nop
  · subst hi
    obtain rfl := execNop_next h
    exact hs
  · rcases exec_err hi h with herr | ⟨herr, -⟩ | ⟨herr, -⟩ <;> simp [herr]

/-- Settles O47, by the event: a read and a register write keep ERR, Reset sets it to 0, and of the OPR writes only an
unassigned word sets it to 3. -/
theorem illegalOpHasOneCause : Obligations.IllegalOpHasOneCause := by
  unfold Obligations.IllegalOpHasOneCause
  intro e s t h hs ht
  match e, h with
  | .txn (.read idx), rfl => exact absurd ht hs
  | .reset, rfl => exact absurd ht (by simp)
  | .txn (.write idx v), h =>
    rcases hostWrite_next h with ⟨rfl, hop⟩ | ⟨r, -, -, rfl⟩ | ⟨-, rfl⟩
    · rcases performOp_next hop with ⟨i, -, -, hexec⟩ | ⟨hv, -⟩
      · exact absurd ht (exec_err_ne_illegalOp hexec hs)
      · exact ⟨v, rfl, hv⟩
    · exact absurd ht (by rwa [State.writeReg_keeps_err])
    · exact absurd ht hs

/-! ### STATUS.ERR is not sticky (R227) -/

/-- `s` with the ERR `e`. -/
def State.withErr (e : BitVec 2) (s : State) : State := { s with err := e }

@[simp] theorem State.withErr_fcmd (e : BitVec 2) (s : State) : (s.withErr e).fcmd = s.fcmd := rfl
@[simp] theorem State.withErr_freg (e : BitVec 2) (s : State) : (s.withErr e).freg = s.freg := rfl
@[simp] theorem State.withErr_llen (e : BitVec 2) (s : State) : (s.withErr e).llen = s.llen := rfl
@[simp] theorem State.withErr_line (e : BitVec 2) (s : State) : (s.withErr e).line = s.line := rfl
@[simp] theorem State.withErr_arg (e : BitVec 2) (s : State) : (s.withErr e).arg = s.arg := rfl

/-- An error code overwrites the ERR before it. -/
@[simp] theorem State.setErr_withErr (s : State) (e : BitVec 2) (c : ErrCode) :
    (s.withErr e).setErr c = s.setErr c := rfl

theorem raise_withErr (c : ErrCode) (s : State) (e : BitVec 2) : raise c (s.withErr e) = raise c s := by
  simp only [raise, State.setErr_withErr]

/-- An operation that commits overwrites the ERR before it, when its other writes leave ERR alone and do not depend on
it. -/
theorem commit_withErr {f : State → State} {s : State} {e : BitVec 2} (hf : f (s.withErr e) = (f s).withErr e) :
    commit f (s.withErr e) = commit f s := by
  simp only [commit, hf, State.setErr_withErr]

/-- An operation other than NOP reads its operands, and what decides whether it raises, from other registers, and ends
by writing ERR. -/
theorem exec_withErr {i : Instr} (s : State) (e : BitVec 2) (hi : i ≠ .nop) :
    exec i (s.withErr e) = exec i s := by
  cases i with
  | nop => exact absurd rfl hi
  | encode =>
    simp only [exec, execEncode, State.withErr_fcmd, State.withErr_freg]
    split
    · exact commit_withErr rfl
    · exact raise_withErr _ s e
  | decode =>
    simp only [exec, execDecode, State.withErr_llen, State.withErr_line]
    split
    · exact raise_withErr _ s e
    · exact raise_withErr _ s e
    · exact commit_withErr rfl
  | conv => exact commit_withErr (f := fun s => s.setRes (revMin s.arg)) rfl
  | csinit => exact commit_withErr (f := fun s => s.setAcc Config.csumSeed) rfl
  | swap16 | csbyte | csverify | nameof =>
    simp only [exec, execSwap16, execCsbyte, execCsverify, execNameof, nameofIn, State.withErr_arg]
    split
    · exact raise_withErr _ s e
    · exact commit_withErr rfl

/-- NOP's word is 0, and an unassigned word overwrites ERR too. -/
theorem performOp_withErr {v : Word} (s : State) (e : BitVec 2) (hv : v ≠ 0) :
    performOp v (s.withErr e) = performOp v s := by
  rcases decode_cases v with ⟨i, -, rfl⟩ | ⟨-, hge⟩
  · have hi : i ≠ .nop := by
      rintro rfl
      exact hv rfl
    rw [performOp_encode, performOp_encode, exec_withErr s e hi]
  · rw [performOp_of_nine_le _ hge, performOp_of_nine_le _ hge, State.setErr_withErr]

theorem State.resetEngine_withErr (s : State) (e : BitVec 2) : (s.withErr e).resetEngine = s.resetEngine := rfl

/-- Settles O48: an operation other than NOP overwrites ERR and does not read it, and Reset puts 0 there. -/
theorem errIsNotSticky : Obligations.ErrIsNotSticky := by
  unfold Obligations.ErrIsNotSticky
  intro v s e hv
  exact ⟨performOp_withErr s e hv, congrArg Host.Outcome.next (s.resetEngine_withErr e)⟩

end Sys2Proof.Machine
end

section
/-! PROOFS of the statements of spec/70_reset_and_hazards.md section 1 and spec/45_host_interface.md section 2: Reset
(R250), and what one step takes from the host. -/

namespace Sys2Proof.Machine

open Sys2Proof.Safety

/-! ### Reset (R250) -/

/-- What Reset keeps (the catalog, and the host's two fields) is none of R21's elements. -/
theorem State.resetEngine_hasResetValues (s : State) : HasResetValues s.resetEngine := reset_hasResetValues

theorem hostEvent_reset (s : State) : hostEvent .reset s = .next s.resetEngine := rfl

/-- Settles O1: the machine starts with the reset values, and the Reset event brings every state to them. -/
theorem resetSetsEveryElement : Obligations.ResetSetsEveryElement := by
  unfold Obligations.ResetSetsEveryElement
  exact ⟨reset_hasResetValues, fun s => ⟨_, hostEvent_reset s, s.resetEngine_hasResetValues⟩⟩

/-! ### Reads (R201) -/

/-- Settles O10: `State.answer` appends to `answers`, and a read does nothing else. -/
theorem hostReadIsAnswered : Obligations.HostReadIsAnswered := by
  unfold Obligations.HostReadIsAnswered
  exact hostEvent_read

/-! ### One step (R58, R203, R252) -/

/-- Settles O8, by the two forms of the host's list. -/
theorem stepTakesTheOldestEvent : Obligations.StepTakesTheOldestEvent := by
  unfold Obligations.StepTakesTheOldestEvent
  exact ⟨fun _ _ _ => step_of_pending_cons, fun _ => step_of_pending_nil⟩

/-- A step that takes a host write is that write. -/
theorem step_of_pending_write {s : State} {idx : Index} {v : Word} {rest : List HostEvent}
    (h : s.pending = .txn (.write idx v) :: rest) : step s = hostWrite idx v (s.setPending rest) :=
  step_of_pending_cons h

/-- Settles O7: v is the word of i, as no other word decodes to it. Every operation is well formed, so that hypothesis
plays no part. -/
theorem stepRunsTheDecodedOperation : Obligations.StepRunsTheDecodedOperation := by
  unfold Obligations.StepRunsTheDecodedOperation
  intro s v rest i hpending hdecode _
  obtain rfl := decode_eq_op_iff.mp hdecode
  calc step s = hostWrite HostReg.opr.index (encode i) (s.setPending rest) := step_of_pending_write hpending
    _ = performOp (encode i) (s.setPending rest) := hostWrite_opr _ _
    _ = exec i (s.setPending rest) := performOp_encode i _

end Sys2Proof.Machine
end

section
/-! PROOFS of the statements of spec/30_encoding.md section 4, the host assembly: `wline` loads the line (R85). -/

namespace Sys2Proof.Machine

/-! ### Characters written over a line -/

/-- A line with the characters written over its entries from `i` on, and its other entries as before. -/
def overwriteFrom (chars : Vector Byte Config.lineCap) (i : Nat) (new : List Byte) : Vector Byte Config.lineCap :=
  Vector.ofFn fun j => if j.val < i then chars[j] else (new[j.val - i]?).getD chars[j]

theorem getElem_overwriteFrom (chars : Vector Byte Config.lineCap) (i : Nat) (new : List Byte) {j : Nat}
    (hj : j < Config.lineCap) :
    (overwriteFrom chars i new)[j] = if j < i then chars[j] else (new[j - i]?).getD chars[j] :=
  Vector.getElem_ofFn hj

theorem overwriteFrom_nil (chars : Vector Byte Config.lineCap) (i : Nat) : overwriteFrom chars i [] = chars := by
  ext j hj
  simp [getElem_overwriteFrom]

/-- Over the whole line, entry j takes character j where there is one. -/
theorem overwriteFrom_zero (chars : Vector Byte Config.lineCap) (new : List Byte) :
    overwriteFrom chars 0 new = Vector.ofFn fun j => (new[j.val]?).getD chars[j] := by
  simp only [overwriteFrom, Nat.not_lt_zero, if_false, Nat.sub_zero]

/-- The first character is one entry's write, after which the others go over the entries that follow it. -/
theorem overwriteFrom_cons (chars : Vector Byte Config.lineCap) (i : Fin Config.lineCap) (c : Byte) (cs : List Byte) :
    overwriteFrom chars i (c :: cs) = overwriteFrom (chars.set i c) (i + 1) cs := by
  ext j hj
  rw [getElem_overwriteFrom, getElem_overwriteFrom]
  rcases Nat.lt_trichotomy j i with hlt | rfl | hgt
  · rw [if_pos hlt, if_pos (Nat.lt_succ_of_lt hlt), Vector.getElem_set_ne _ _ (Nat.ne_of_gt hlt)]
  · simp
  · have hsub : j - i = j - (i + 1) + 1 := by omega
    rw [if_neg (Nat.not_lt_of_gt hgt), if_neg (Nat.not_lt.mpr hgt), Vector.getElem_set_ne _ _ (Nat.ne_of_lt hgt), hsub,
      List.getElem?_cons_succ]

/-! ### The transactions of `wline` (R85) -/

/-- `wline` has an expansion for up to 17 characters, and this one only. -/
theorem assemble_wline_eq_some_iff {llen : Word} {chars : List Byte} {ts : List Transaction} :
    assemble llen (.wline chars) = some ts ↔
      chars.length ≤ Config.lineCap ∧
        ts = writeChars 0 chars ++ [.write HostReg.llen.index (BitVec.ofNat 32 chars.length)] := by
  simp only [assemble, Option.ite_none_right_eq_some, Option.some.injEq, eq_comm (a := ts)]

/-- A step that takes a host write to a register other than OPR stores, and nothing else. -/
theorem step_of_pending_write_index {s : State} {r : HostReg} {v : Word} {rest : List HostEvent} (hr : r ≠ .opr)
    (h : s.pending = .txn (.write r.index v) :: rest) : step s = .next ((s.setPending rest).writeReg v r) :=
  (step_of_pending_write h).trans (hostWrite_index _ v hr)

/-- A character goes out as a word (R60), and a LINE entry keeps the word's low 8 bits. -/
theorem State.writeReg_line_char (s : State) (c : Byte) (i : Fin Config.lineCap) :
    s.writeReg (c.setWidth 32) (.line i) = { s with line := s.line.set i c } := by
  have hc : (c.setWidth 32).extractLsb' 0 8 = c := by
    rw [BitVec.extractLsb'_setWidth_of_le (by decide), BitVec.extractLsb'_eq_self]
  rw [State.writeReg_line, hc]

/-- As many steps as there are characters write them over LINE, from the entry where they start, and then the run goes
on. -/
theorem run_writeChars (chars : List Byte) (i n : Nat) (s : State) (rest : List HostEvent)
    (hcap : i + chars.length ≤ Config.lineCap) (hpending : s.pending = (writeChars i chars).map .txn ++ rest) :
    core.run (chars.length + n) s = core.run n { s with line := overwriteFrom s.line i chars, pending := rest } := by
  induction chars generalizing i s with
  | nil =>
    have hrest : s.pending = rest := hpending
    rw [overwriteFrom_nil, ← hrest, List.length_nil, Nat.zero_add]
  | cons c cs ih =>
    rw [List.length_cons] at hcap
    have hi : i < Config.lineCap := by omega
    have hstep := step_of_pending_write_index (r := .line ⟨i, hi⟩) (by simp) hpending
    rw [State.writeReg_line_char] at hstep
    rw [List.length_cons, Nat.add_right_comm, run_succ hstep, ih (i + 1) _ (by omega) rfl,
      overwriteFrom_cons s.line ⟨i, hi⟩]
    rfl

/-- Settles O6: the characters' writes, then the length's. -/
theorem wlineLoadsTheLine : Obligations.WlineLoadsTheLine := by
  unfold Obligations.WlineLoadsTheLine
  intro s llen chars ts rest hassemble hpending
  obtain ⟨hcap, rfl⟩ := assemble_wline_eq_some_iff.mp hassemble
  rw [List.map_append, List.append_assoc] at hpending
  rw [run_writeChars chars 0 1 s _ (by omega) hpending, overwriteFrom_zero,
    run_succ (step_of_pending_write_index (r := .llen) (by simp) rfl)]
  rfl

end Sys2Proof.Machine
end
